-- ==== Sys2Proof/Word.lean ====
section
/-! DEFINITION. The word types of CPRE, the colour-pattern rendering engine of spec/00_scope.md. -/

namespace Sys2Proof

/-- A register or a command word: 32 bits (10_state.md R31, 30_encoding.md R90). -/
abbrev Word := BitVec 32

/-- A byte of the message staging buffer (10_state.md R54). -/
abbrev Byte := BitVec 8

/-- One channel, frame-buffer element or gamma entry.  It is `CW` bits wide, `CW` being 8 or 16
(00_scope.md R10): the type is the wider of the two, and a machine with `CW` = 8 keeps bits 15:8
zero (`State.Inv`, log entry 6). -/
abbrev Elem := BitVec 16

/-- The bit pattern of an IEEE 754 binary32 value (00_scope.md R15). -/
abbrev F32 := BitVec 32

end Sys2Proof
end

