-- ==== Sys2Proof/Syntax.lean ====
section
/-! DEFINITION. The commands of CPRE: one constructor per row of spec/opcode_table.json
(30_encoding.md R96), in the table's order. -/

namespace Sys2Proof

/-- A command with the operand fields of its word (30_encoding.md R92 to R95). -/
inductive Instr where
  /-- ALL_OFF, 44_render.md R192. -/
  | allOff
  /-- FILL_GRADIENT, 44_render.md R196. -/
  | fillGradient
  /-- FILL_GRADIENT_DUAL, 44_render.md R197. -/
  | fillGradientDual
  /-- FILL_TRIANGLE, 44_render.md R198. -/
  | fillTriangle
  /-- FILL_RANDOM, 44_render.md R199. -/
  | fillRandom
  /-- SET_PIXEL, 44_render.md R191. -/
  | setPixel (idx : BitVec 16)
  /-- HSV2RGB, 42_color.md R150. -/
  | hsv2rgb
  /-- HSV_INTERP, 42_color.md R151. -/
  | hsvInterp
  /-- SCALE, 40_scale_map.md R123. -/
  | scale
  /-- MAP_RANGE, 40_scale_map.md R124. -/
  | mapRange
  /-- LCG_NEXT, 41_lcg.md R133. -/
  | lcgNext
  /-- LCG_NEXT_F, 41_lcg.md R135. -/
  | lcgNextF
  /-- SPR_INIT, 43_sprite.md R162. -/
  | sprInit (n : BitVec 11)
  /-- SPR_TICK, 43_sprite.md R166. -/
  | sprTick
  /-- REND_INIT, 44_render.md R186. -/
  | rendInit (len : BitVec 11) (proto : BitVec 2)
  /-- MSG_LOAD, 45_host_control.md R213. -/
  | msgLoad
  /-- FRAME_TICK, 45_host_control.md R217. -/
  | frameTick
deriving DecidableEq, Repr

end Sys2Proof
end

