-- ==== Sys2Proof/WellFormed.lean ====
section
/-! DEFINITION. Which terms of `Instr` some command word spells. -/

namespace Sys2Proof

/-- The one check the field widths leave over: `proto` = 3 is reserved (30_encoding.md R95, R99). -/
def Instr.wellFormed : Instr → Bool
  | .rendInit _ proto => proto != 3#2
  | .allOff | .fillGradient | .fillGradientDual | .fillTriangle | .fillRandom
  | .setPixel _ | .hsv2rgb | .hsvInterp | .scale | .mapRange | .lcgNext | .lcgNextF
  | .sprInit _ | .sprTick | .msgLoad | .frameTick => true

/-- A well-formed command. -/
abbrev Instr.WF (i : Instr) : Prop := i.wellFormed = true

end Sys2Proof
end

