-- ==== Sys2Proof/Decode.lean ====
section
/-! DEFINITION. The decoder of 30_encoding.md R98, total on 32-bit words, and the encoder of
R92 to R96. -/

namespace Sys2Proof

/-- Why a word spells no command (30_encoding.md R99).  The machine keeps no record of the reason
(60_exceptions.md R233, R234); the names are the model's. -/
inductive Illegal where
  /-- The opcode is not in the opcode map. -/
  | reservedOpcode
  /-- A bit that the format requires to be zero is one. -/
  | reservedBits
  /-- A REND_INIT word with `proto` = 3. -/
  | reservedProto
deriving DecidableEq, Repr

/-- Bits 7:0 (30_encoding.md R91). -/
def opcodeField (w : Word) : BitVec 8 := w.extractLsb' 0 8

/-- Bits 23:8, the `idx` of format X (30_encoding.md R93). -/
def idxField (w : Word) : BitVec 16 := w.extractLsb' 8 16

/-- Bits 18:8, the `n` of format S and the `len` of format C (30_encoding.md R94, R95). -/
def countField (w : Word) : BitVec 11 := w.extractLsb' 8 11

/-- Bits 25:24, the `proto` of format C (30_encoding.md R95). -/
def protoField (w : Word) : BitVec 2 := w.extractLsb' 24 2

/-- Format N: bits 31:8 must be 0 (30_encoding.md R92). -/
def decodeN (w : Word) (i : Instr) : Except Illegal Instr :=
  if w.extractLsb' 8 24 = 0#24 then .ok i else .error .reservedBits

/-- Format X: bits 31:24 must be 0 (30_encoding.md R93). -/
def decodeX (w : Word) : Except Illegal Instr :=
  if w.extractLsb' 24 8 = 0#8 then .ok (.setPixel (idxField w)) else .error .reservedBits

/-- Format S: bits 31:19 must be 0 (30_encoding.md R94). -/
def decodeS (w : Word) : Except Illegal Instr :=
  if w.extractLsb' 19 13 = 0#13 then .ok (.sprInit (countField w)) else .error .reservedBits

/-- Format C: bits 31:26 and 23:19 must be 0, and `proto` = 3 is reserved (30_encoding.md R95). -/
def decodeC (w : Word) : Except Illegal Instr :=
  if w.extractLsb' 26 6 = 0#6 ∧ w.extractLsb' 19 5 = 0#5 then
    if protoField w = 3#2 then .error .reservedProto
    else .ok (.rendInit (countField w) (protoField w))
  else .error .reservedBits

/-- The command a word spells, or the reason it spells none (30_encoding.md R96, R98, R99). -/
def decode (w : Word) : Except Illegal Instr :=
  match opcodeField w with
  | 0x00#8 => decodeN w .allOff
  | 0x01#8 => decodeN w .fillGradient
  | 0x02#8 => decodeN w .fillGradientDual
  | 0x03#8 => decodeN w .fillTriangle
  | 0x04#8 => decodeN w .fillRandom
  | 0x08#8 => decodeX w
  | 0x10#8 => decodeN w .hsv2rgb
  | 0x11#8 => decodeN w .hsvInterp
  | 0x12#8 => decodeN w .scale
  | 0x13#8 => decodeN w .mapRange
  | 0x18#8 => decodeN w .lcgNext
  | 0x19#8 => decodeN w .lcgNextF
  | 0x20#8 => decodeS w
  | 0x21#8 => decodeN w .sprTick
  | 0x28#8 => decodeC w
  | 0x29#8 => decodeN w .msgLoad
  | 0x2A#8 => decodeN w .frameTick
  | _ => .error .reservedOpcode

/-- The opcode of a command (30_encoding.md R96). -/
def opcodeOf : Instr → BitVec 8
  | .allOff => 0x00#8
  | .fillGradient => 0x01#8
  | .fillGradientDual => 0x02#8
  | .fillTriangle => 0x03#8
  | .fillRandom => 0x04#8
  | .setPixel _ => 0x08#8
  | .hsv2rgb => 0x10#8
  | .hsvInterp => 0x11#8
  | .scale => 0x12#8
  | .mapRange => 0x13#8
  | .lcgNext => 0x18#8
  | .lcgNextF => 0x19#8
  | .sprInit _ => 0x20#8
  | .sprTick => 0x21#8
  | .rendInit _ _ => 0x28#8
  | .msgLoad => 0x29#8
  | .frameTick => 0x2A#8

/-- Bits 31:8 of a command's word: the operand fields of its format, 0 elsewhere
(30_encoding.md R92 to R95). -/
def operandBits : Instr → BitVec 24
  | .setPixel idx => 0#8 ++ idx
  | .sprInit n => 0#13 ++ n
  | .rendInit len proto => 0#6 ++ proto ++ 0#5 ++ len
  | .allOff | .fillGradient | .fillGradientDual | .fillTriangle | .fillRandom
  | .hsv2rgb | .hsvInterp | .scale | .mapRange | .lcgNext | .lcgNextF
  | .sprTick | .msgLoad | .frameTick => 0#24

/-- The command word of a command (30_encoding.md R91 to R96). -/
def encode (i : Instr) : Word := operandBits i ++ opcodeOf i

/-- The decoder on a word numbered as spec/opcode_table.json numbers it.  Every row has one 32-bit
word, which is written to `CMD` whole, so there is no byte order (20_memory.md R73, R82); a number
that needs more than 32 bits is no command word (30_encoding.md R90). -/
def decodeTableWord (nbits w : Nat) : Option Instr :=
  if w % 2 ^ nbits < 2 ^ 32 then (decode (BitVec.ofNat 32 (w % 2 ^ nbits))).toOption else none

end Sys2Proof
end

