-- ==== Sys2Proof/Config.lean ====
section
/-! DEFINITION. What an implementation of CPRE fixes: the parameters of 00_scope.md R9 (the record
`Config`, which `State` carries unchanged, and the named constants), and the free values. -/

namespace Sys2Proof

/-- `CW`, the width of a channel and of a frame-buffer element: 8 or 16 bits (00_scope.md R10). -/
inductive ChannelWidth where
  | w8
  | w16
deriving DecidableEq, Repr

/-- `CW` as a number. -/
def ChannelWidth.bits : ChannelWidth → Nat
  | .w8 => 8
  | .w16 => 16

/-- The parameters of one implementation to which the spec gives two values or none
(00_scope.md R9, R58).  No step changes them. -/
structure Config where
  /-- `CW`. -/
  cw : ChannelWidth
  /-- `END_LEN`, the number of end-frame elements (OPEN). -/
  endLen : Nat
  /-- `HDR_VAL`, the value of each of the 4 header elements (OPEN). -/
  hdrVal : Elem
  /-- `BRIGHT`, the brightness element of a clocked-RGB pixel (OPEN, non-zero). -/
  bright : Elem
  /-- `END_VAL`, the value of each end-frame element (OPEN). -/
  endVal : Elem
  /-- `GAMMA_INIT`, the contents of `GAMMA` after every reset, as (index, entry) pairs with an entry
  not listed 0 (OPEN); `none` where the instance is given none (10_state.md R59). -/
  gammaInit : Option (List (Nat × Elem))
deriving DecidableEq, Repr

/-- `CW` = `BITS` (00_scope.md R9). -/
def Config.bits (c : Config) : Nat := c.cw.bits

/-- `CH_MAX` = `MAX` = `2^CW - 1` (00_scope.md R9, 40_scale_map.md R120). -/
def Config.chMax (c : Config) : Nat := 2 ^ c.bits - 1

/-- `PIX_MAX` (00_scope.md R11). -/
def Config.pixMax : Nat := 1024

/-- `N_MAX`, equal to `PIX_MAX` (00_scope.md R9). -/
def Config.nMax : Nat := Config.pixMax

/-- `FB_CAP` (00_scope.md R12). -/
def Config.fbCap (c : Config) : Nat := 4 + 4 * Config.pixMax + c.endLen

/-- The size of the message staging buffer (10_state.md R54). -/
def Config.msgLen : Nat := 25

/-- `LCG_A` (41_lcg.md R131). -/
def Config.lcgA : Nat := 1103515245

/-- `LCG_C` (41_lcg.md R131). -/
def Config.lcgC : Nat := 12345

/-- `LCG_M` (41_lcg.md R131). -/
def Config.lcgM : Nat := 2147483648

/-- `STEP_MIN`, the binary32 nearest to 0.001 (00_scope.md R9). -/
def Config.stepMin : F32 := 0x3A83126F#32

/-- What the spec asks of the parameters: each element value is a `CW`-bit value, `BRIGHT` is not
zero (00_scope.md R9, 44_render.md R188), and `GAMMA_INIT`, where given, holds `CW`-bit entries of
the table (10_state.md R53), listed in the canonical form of a memory. -/
structure Config.WF (c : Config) : Prop where
  hdr : c.hdrVal.toNat ≤ c.chMax
  bright : c.bright.toNat ≤ c.chMax
  brightNonzero : c.bright ≠ 0#16
  endv : c.endVal.toNat ≤ c.chMax
  gammaInit : ∀ g ∈ c.gammaInit, g.Pairwise (fun x y => x.1 < y.1) ∧
    ∀ x ∈ g, x.2 ≠ 0#16 ∧ x.1 ≤ c.chMax ∧ x.2.toNat ≤ c.chMax

/-- The suggested parameters with `CW` = 8, those of the test vectors (95_test_vectors.md).
00_scope.md R9 suggests no `GAMMA_INIT`. -/
def Config.suggested8 : Config :=
  { cw := .w8, endLen := 4, hdrVal := 0x0000#16, bright := 0x00FF#16, endVal := 0x00FF#16,
    gammaInit := none }

/-- DESIGN CHOICE (log entry 5).  The suggested parameters with the canonical `CW` = 16
(00_scope.md R9). -/
def Config.suggested16 : Config :=
  { cw := .w16, endLen := 4, hdrVal := 0x0000#16, bright := 0xFFFF#16, endVal := 0xFFFF#16,
    gammaInit := none }

/-- Free value (log entry 3).  The sign and payload of the quiet NaN that a float operation makes
from these operands: the spec gives no NaN a payload, and no machine that keeps `State.Inv` makes
one (00_scope.md R21).  Bit 22 is the sign. -/
opaque Config.nanBits : F32 → F32 → BitVec 23

/-- Free value (log entry 3).  What `fmin` and `fmax` give when an operand is a NaN, where
00_scope.md R17 defines neither. -/
opaque Config.minMaxOfNaN : F32 → F32 → F32

end Sys2Proof
end

