-- ==== Sys2Proof/Machine/Float.lean ====
section
/-! DEFINITION. The float primitives of 00_scope.md R15 to R20: IEEE 754 binary32 on bit patterns,
every operation rounded once to nearest, ties to even, subnormals kept.

A finite float is a sign and a magnitude; a magnitude is counted in units of `2^-149`, the smallest
subnormal, in which every finite float is a whole number.  Each operation computes its exact result
as a fraction of whole numbers and rounds it once with `roundMag`. -/

namespace Sys2Proof.Machine

open Sys2Proof

/-- `1.0`. -/
def fOne : F32 := 0x3F800000#32

/-- `2.0`. -/
def fTwo : F32 := 0x40000000#32

/-- `6.0`. -/
def fSix : F32 := 0x40C00000#32

/-- `255.0`. -/
def f255 : F32 := 0x437F0000#32

/-- `65535.0`. -/
def f65535 : F32 := 0x477FFF00#32

/-- Bits 30:0, the pattern of the magnitude (00_scope.md R15). -/
def magBits (a : F32) : Nat := a.toNat % 2 ^ 31

/-- The pattern of an infinite magnitude. -/
def infBits : Nat := 0x7F800000

/-- Whether the pattern is a NaN (00_scope.md R15). -/
def isNaN (a : F32) : Bool := decide (infBits < magBits a)

/-- How many units of `2^-149` a finite magnitude pattern stands for: the fraction field of a
subnormal, the fraction field with its hidden bit times `2^(e-1)` where the exponent field `e` is
not 0 (00_scope.md R15). -/
def scaledMag (m : Nat) : Nat :=
  if m / 2 ^ 23 = 0 then m else (2 ^ 23 + m % 2 ^ 23) * 2 ^ (m / 2 ^ 23 - 1)

/-- The magnitude pattern nearest to `n / d` units of `2^-149`, ties to even, as if the exponent
field had no end (00_scope.md R16).  With `k` the binary exponent of the last place kept, counted
from `2^-149`, and `m` the significand cut off there, `k * 2^23 + m` is the pattern of the float
below, and one more is the pattern of the next float. -/
def roundUnbounded (n d : Nat) : Nat :=
  let k := Nat.log2 (n / d) - 23
  let m := n / (d * 2 ^ k)
  let rest := n % (d * 2 ^ k)
  k * 2 ^ 23 + m +
    if 2 * rest > d * 2 ^ k ∨ (2 * rest = d * 2 ^ k ∧ m % 2 = 1) then 1 else 0

/-- The magnitude pattern nearest to `n / d` units of `2^-149`, ties to even; the infinite one where
the rounded value is out of range (00_scope.md R16). -/
def roundMag (n d : Nat) : Nat := min (roundUnbounded n d) infBits

/-- The pattern with this sign and magnitude pattern. -/
def mkFloat (neg : Bool) (mag : Nat) : F32 :=
  BitVec.ofNat 32 (mag + if neg then 2 ^ 31 else 0)

/-- What a pattern stands for. -/
inductive FloatView where
  | nan
  | inf (neg : Bool)
  | fin (neg : Bool) (scaled : Nat)
deriving DecidableEq, Repr

/-- The value of a pattern (00_scope.md R15). -/
def view (a : F32) : FloatView :=
  if isNaN a then .nan
  else if magBits a = infBits then .inf a.msb
  else .fin a.msb (scaledMag (magBits a))

/-- The quiet NaN an operation makes from these operands; its sign and payload are free
(log entry 3). -/
def quietNaN (a b : F32) : F32 :=
  mkFloat ((Config.nanBits a b).msb) (0x7FC00000 + (Config.nanBits a b).toNat % 2 ^ 22)

/-- A finite magnitude with its sign, as an integer. -/
def signedMag (neg : Bool) (m : Nat) : Int := if neg then -(m : Int) else m

/-- The sum of two finite floats.  An exact zero is `-0.0` only where both operands are. -/
def addFinite (na : Bool) (ma : Nat) (nb : Bool) (mb : Nat) : F32 :=
  let z := signedMag na ma + signedMag nb mb
  if z = 0 then mkFloat (na && nb) 0 else mkFloat (decide (z < 0)) (roundMag z.natAbs 1)

/-- `fadd(a, b)` (00_scope.md R16). -/
def fadd (a b : F32) : F32 :=
  match view a, view b with
  | .nan, _ => quietNaN a b
  | .inf _, .nan => quietNaN a b
  | .inf na, .inf nb => if na = nb then a else quietNaN a b
  | .inf _, .fin _ _ => a
  | .fin _ _, .nan => quietNaN a b
  | .fin _ _, .inf _ => b
  | .fin na ma, .fin nb mb => addFinite na ma nb mb

/-- The pattern with the other sign. -/
def fneg (a : F32) : F32 := a ^^^ 0x80000000#32

/-- `fsub(a, b)` (00_scope.md R16). -/
def fsub (a b : F32) : F32 := fadd a (fneg b)

/-- `fmul(a, b)` (00_scope.md R16). -/
def fmul (a b : F32) : F32 :=
  match view a, view b with
  | .nan, _ => quietNaN a b
  | .inf _, .nan => quietNaN a b
  | .inf na, .inf nb => mkFloat (na ^^ nb) infBits
  | .inf na, .fin nb mb => if mb = 0 then quietNaN a b else mkFloat (na ^^ nb) infBits
  | .fin _ _, .nan => quietNaN a b
  | .fin na ma, .inf nb => if ma = 0 then quietNaN a b else mkFloat (na ^^ nb) infBits
  | .fin na ma, .fin nb mb => mkFloat (na ^^ nb) (roundMag (ma * mb) (2 ^ 149))

/-- `fdiv(a, b)` (00_scope.md R16). -/
def fdiv (a b : F32) : F32 :=
  match view a, view b with
  | .nan, _ => quietNaN a b
  | .inf _, .nan => quietNaN a b
  | .inf _, .inf _ => quietNaN a b
  | .inf na, .fin nb _ => mkFloat (na ^^ nb) infBits
  | .fin _ _, .nan => quietNaN a b
  | .fin na _, .inf nb => mkFloat (na ^^ nb) 0
  | .fin na ma, .fin nb mb =>
    if mb = 0 then (if ma = 0 then quietNaN a b else mkFloat (na ^^ nb) infBits)
    else mkFloat (na ^^ nb) (roundMag (ma * 2 ^ 149) mb)

/-- `ffloor(a)` (00_scope.md R17). -/
def ffloor (a : F32) : F32 :=
  match view a with
  | .nan => quietNaN a a
  | .inf _ => a
  | .fin false m => mkFloat false (roundMag (m / 2 ^ 149 * 2 ^ 149) 1)
  | .fin true m => mkFloat true (roundMag ((m + (2 ^ 149 - 1)) / 2 ^ 149 * 2 ^ 149) 1)

/-- `fabs(a)` (00_scope.md R17). -/
def fabs (a : F32) : F32 := a &&& 0x7FFFFFFF#32

/-- `i2f(n)` (00_scope.md R17). -/
def i2f (n : Nat) : F32 := mkFloat false (roundMag (n * 2 ^ 149) 1)

/-- The place of a pattern that is no NaN in the order of the floats; both zeros are 0. -/
def floatKey (a : F32) : Int := signedMag a.msb (magBits a)

/-- `a == b` (00_scope.md R17). -/
def feq (a b : F32) : Bool := !isNaN a && !isNaN b && decide (floatKey a = floatKey b)

/-- `a < b` (00_scope.md R17). -/
def flt (a b : F32) : Bool := !isNaN a && !isNaN b && decide (floatKey a < floatKey b)

/-- `a <= b` (00_scope.md R17). -/
def fle (a b : F32) : Bool := !isNaN a && !isNaN b && decide (floatKey a ≤ floatKey b)

/-- `fmin(a, b)`: `a` where the two compare equal (00_scope.md R17); free where one is a NaN
(log entry 3). -/
def fmin (a b : F32) : F32 :=
  if isNaN a || isNaN b then Config.minMaxOfNaN a b else if fle a b then a else b

/-- `fmax(a, b)`: `a` where the two compare equal (00_scope.md R17); free where one is a NaN
(log entry 3). -/
def fmax (a b : F32) : F32 :=
  if isNaN a || isNaN b then Config.minMaxOfNaN a b else if fle b a then a else b

/-- `f2i(a)`, truncating and saturating (00_scope.md R18). -/
def f2i (a : F32) : Word :=
  match view a with
  | .nan => 0#32
  | .inf neg => if neg then 0#32 else 0xFFFFFFFF#32
  | .fin neg m => if neg then 0#32 else BitVec.ofNat 32 (min (m / 2 ^ 149) (2 ^ 32 - 1))

/-- `clamp01(a)` (00_scope.md R19). -/
def clamp01 (a : F32) : F32 :=
  if isNaN a then 0#32
  else if fle a 0#32 then 0#32
  else if fle fOne a then fOne
  else a

/-- `le32(b0, b1, b2, b3)`, `b0` the least significant byte (00_scope.md R20). -/
def le32 (b0 b1 b2 b3 : Byte) : Word := b3 ++ b2 ++ b1 ++ b0

/-- The patterns `clamp01` can give: the floats in `[0.0, 1.0]` other than `-0.0`
(00_scope.md R19). -/
abbrev inUnit (a : F32) : Prop := a.toNat ≤ 0x3F800000

end Sys2Proof.Machine
end

