-- ==== Sys2Proof/Machine/State.lean ====
section
/-! DEFINITION. The state of CPRE as plain data (10_state.md R30), what the outside world can do to
it, and the state after reset (10_state.md R59). -/

namespace Sys2Proof.Machine

open Sys2Proof

/-- Why the machine stops with a fault: NEVER.  The type has no constructor, because no command, no
host access and no reset faults, traps or halts (60_exceptions.md R230, R235, R239, R242). -/
inductive Fault where
deriving DecidableEq, Repr

/-- Why a command has no meaning in the model. -/
inductive Refusal where
  /-- Raised by an arm of `exec` whose command has no meaning yet: by none, every command has one.
  Safe: the run stops where the hardware goes on. -/
  | notModelled (mnemonic : String)
deriving DecidableEq, Repr

/-- A PixelHSV: hue, saturation, value (42_color.md R140). -/
structure Hsv where
  h : F32
  s : F32
  v : F32
deriving DecidableEq, Repr

/-- A Pixel: red, green, blue (42_color.md R141). -/
structure Pixel where
  r : Elem
  g : Elem
  b : Elem
deriving DecidableEq, Repr

/-- One entry of the sprite bank (10_state.md R52). -/
structure Sprite where
  value : F32
  target : F32
  step : F32
deriving DecidableEq, Repr

/-- The three fields of a sprite, as an index of the `SPR` space (20_memory.md R70). -/
inductive SpriteField where
  | value
  | target
  | step
deriving DecidableEq, Repr

/-- The values of `PROTO`: 0, 1 and 2; the value 3 is never stored (10_state.md R47). -/
inductive Proto where
  | clocked
  | single
  | pwm
deriving DecidableEq, Repr

/-- The pattern identifiers, 0 to 4, in order (45_host_control.md R212). -/
inductive Pattern where
  | allOff
  | gradient
  | dual
  | triangle
  | random
deriving DecidableEq, Repr

/-- A ColorMessage (10_state.md R48). -/
structure Message where
  pattern : Pattern
  startC : Hsv
  endC : Hsv
deriving DecidableEq, Repr

/-- The flags of `STATUS` that can be set (10_state.md R34); `BUSY` and the reserved bits always
read 0 and have no cell. -/
structure Status where
  rendOk : Bool
  sprOk : Bool
  msgValid : Bool
  msgChanged : Bool
  ill : Bool
deriving DecidableEq, Repr

/-- A memory, as the list of its (index, unit) pairs in the canonical form of `Memory.wf`: indices
strictly rising, and no unit listed that an unlisted index reads as.  `Memory Byte` is a list of
`Host.Cell`. -/
abbrev Memory (α : Type) := List (Nat × α)

/-- What an unlisted element of `FB` or entry of `GAMMA` holds (DESIGN CHOICE, log entry 1). -/
def emptyElem : Elem := 0#16

/-- What an unlisted sprite holds (DESIGN CHOICE, log entry 1). -/
def emptySprite : Sprite := { value := 0#32, target := 0#32, step := 0#32 }

/-- What an unlisted byte of `MSGBUF` holds: its reset value (10_state.md R59). -/
def emptyByte : Byte := 0#8

/-- The contents that the memories whose reset contents are unspecified come out of a reset with
(10_state.md R59, 70_reset_and_hazards.md R252): the model takes them as an argument of the reset
event.  An index not listed comes up holding what an unlisted index reads as.  `gamma` counts only
for an instance that is given no `GAMMA_INIT`. -/
structure ResetContents where
  fb : List (Nat × Elem)
  spr : List (Nat × Sprite)
  gamma : List (Nat × Elem)
deriving DecidableEq, Repr

/-- What the outside world does to the block, one at a time: a host access of 20_memory.md R72, a
host access to a register through a byte-addressed bus (10_state.md R31, 20_memory.md R74), or the
reset event (70_reset_and_hazards.md R250).  An index is any number, in range or not. -/
inductive Event where
  | regRead (n : Nat)
  | regWrite (n : Nat) (w : Word)
  | busRegRead (offset bytes : Nat)
  | busRegWrite (offset bytes : Nat) (w : Word)
  | fbRead (j : Nat)
  | fbWrite (j : Nat) (v : Word)
  | sprRead (k : Nat) (f : SpriteField)
  | sprWrite (k : Nat) (f : SpriteField) (w : Word)
  | gammaRead (j : Nat)
  | gammaWrite (j : Nat) (v : Word)
  | msgRead (i : Nat)
  | msgWrite (i : Nat) (v : Word)
  | reset (contents : ResetContents)
deriving DecidableEq, Repr

/-- The state: the parameters, the architectural state of 10_state.md R30, and the two fields of the
MODEL's own that stand for the host port (log entry 2). -/
structure State where
  /-- The parameters of this implementation (00_scope.md R9); no step changes them. -/
  cfg : Config
  /-- Register 1, `STATUS` (10_state.md R34). -/
  status : Status
  /-- Register 2, `CTRL`, bit 0 `GAMMA_EN` (10_state.md R35). -/
  gammaEn : Bool
  /-- Registers 3 to 5, `A_H`, `A_S`, `A_V` (10_state.md R37). -/
  a : Hsv
  /-- Registers 6 to 8, `B_H`, `B_S`, `B_V` (10_state.md R37). -/
  b : Hsv
  /-- Register 9, `T` (10_state.md R38). -/
  t : F32
  /-- Register 10, `PHASE` (10_state.md R39). -/
  phase : F32
  /-- Registers 11 to 13, `R_H`, `R_S`, `R_V` (10_state.md R40). -/
  r : Hsv
  /-- Registers 14 to 16, `PIX_R`, `PIX_G`, `PIX_B` (10_state.md R41). -/
  pix : Pixel
  /-- Register 17, `X0` (10_state.md R42). -/
  x0 : Word
  /-- Register 18, `X1` (10_state.md R42). -/
  x1 : Word
  /-- Register 19, `X2` (10_state.md R42). -/
  x2 : Word
  /-- Register 20, `XR` (10_state.md R42). -/
  xr : Word
  /-- Register 21, `SEED_LO` (10_state.md R43). -/
  seedLo : Word
  /-- Register 22, `SEED_HI` (10_state.md R43). -/
  seedHi : Word
  /-- Register 23, `RND_F` (10_state.md R44). -/
  rndF : F32
  /-- Register 24, `VSCALE` (10_state.md R45). -/
  vscale : F32
  /-- Register 25, `SSCALE` (10_state.md R45). -/
  sscale : F32
  /-- Register 26, `NSPR` (10_state.md R46). -/
  nspr : BitVec 11
  /-- Register 27, `LEN` (10_state.md R47). -/
  len : BitVec 11
  /-- Register 28, `PROTO` (10_state.md R47). -/
  proto : Proto
  /-- Registers 29 to 35, `ACT_PATTERN`, `ACT_START_*`, `ACT_END_*` (10_state.md R48). -/
  act : Message
  /-- Registers 36 to 38, `DUTY_R`, `DUTY_G`, `DUTY_B` (10_state.md R49). -/
  duty : Pixel
  /-- `FB[0 .. FB_CAP-1]` (10_state.md R51). -/
  fb : Memory Elem
  /-- `SPR[0 .. N_MAX-1]` (10_state.md R52). -/
  spr : Memory Sprite
  /-- `GAMMA[0 .. CH_MAX]` (10_state.md R53). -/
  gamma : Memory Elem
  /-- `MSGBUF[0 .. 24]` (10_state.md R54). -/
  msgbuf : Memory Byte
  /-- The MODEL's own: what the outside world does next, in order (log entry 2). -/
  pending : List Event
  /-- The MODEL's own: what the port answered to the last event, `none` where that was no read
  (log entry 2). -/
  answer : Option Word
deriving DecidableEq, Repr

/-- `+0.0` in all three channels. -/
def Hsv.zero : Hsv := { h := 0#32, s := 0#32, v := 0#32 }

/-- Black. -/
def Pixel.zero : Pixel := { r := 0#16, g := 0#16, b := 0#16 }

/-- Every flag clear. -/
def Status.zero : Status :=
  { rendOk := false, sprOk := false, msgValid := false, msgChanged := false, ill := false }

/-- The state after reset of an implementation with parameters `cfg` whose memories with
unspecified reset contents come up holding `fb`, `spr` and, where the instance is given no
`GAMMA_INIT`, `gamma`; where it is given one, `GAMMA` holds that (10_state.md R59,
70_reset_and_hazards.md R251, R252).  Nothing is yet asked of the port. -/
def State.resetFor (cfg : Config) (fb : Memory Elem) (spr : Memory Sprite) (gamma : Memory Elem) :
    State where
  cfg := cfg
  status := Status.zero
  gammaEn := false
  a := Hsv.zero
  b := Hsv.zero
  t := 0#32
  phase := 0#32
  r := Hsv.zero
  pix := Pixel.zero
  x0 := 0#32
  x1 := 0#32
  x2 := 0#32
  xr := 0#32
  seedLo := 0#32
  seedHi := 0#32
  rndF := 0#32
  vscale := 0#32
  sscale := 0#32
  nspr := 0#11
  len := 0#11
  proto := .clocked
  act := { pattern := .allOff, startC := Hsv.zero, endC := Hsv.zero }
  duty := Pixel.zero
  fb := fb
  spr := spr
  gamma := cfg.gammaInit.getD gamma
  msgbuf := []
  pending := []
  answer := none

/-- The state after reset, with the parameters of log entry 5 and nothing listed in any memory
(log entry 1). -/
def State.reset : State := State.resetFor Config.suggested16 [] [] []

end Sys2Proof.Machine
end

