-- ==== Sys2Proof/Machine/Ops.lean ====
section
/-! DEFINITION. The named operations over the memories and the registers, the shared generator, the
illegal command word (the one fault-like event of CPRE) and the reset event. -/

namespace Sys2Proof.Machine

open Sys2Proof

/-! ### Memories -/

/-- The canonical form, where an unlisted index reads as `d`: indices strictly rising, and no unit
`d` listed. -/
abbrev Memory.wf {α : Type} [DecidableEq α] (d : α) (m : Memory α) : Prop :=
  m.Pairwise (fun x y => x.1 < y.1) ∧ ∀ c ∈ m, c.2 ≠ d

/-- The unit at index `j`. -/
def Memory.read {α : Type} (d : α) : Memory α → Nat → α
  | [], _ => d
  | (k, u) :: rest, j => if k = j then u else Memory.read d rest j

/-- The memory with `v` at index `j`, in canonical form. -/
def Memory.write {α : Type} [DecidableEq α] (d : α) : Memory α → Nat → α → Memory α
  | [], j, v => if v = d then [] else [(j, v)]
  | (k, u) :: rest, j, v =>
    if j < k then (if v = d then (k, u) :: rest else (j, v) :: (k, u) :: rest)
    else if j = k then (if v = d then rest else (j, v) :: rest)
    else (k, u) :: Memory.write d rest j v

/-- The memory in canonical form that holds what a list of (index, unit) pairs says: the first pair
of an index stands, and a pair at index `cap` or above goes nowhere (20_memory.md R72). -/
def Memory.load {α : Type} [DecidableEq α] (d : α) (cap : Nat) (fix : α → α) :
    List (Nat × α) → Memory α
  | [] => []
  | (j, v) :: rest =>
    if j < cap then Memory.write d (Memory.load d cap fix rest) j (fix v)
    else Memory.load d cap fix rest

/-- `trunc_CW(w)` (00_scope.md R13). -/
def truncCW (c : Config) (w : Word) : Elem := BitVec.ofNat 16 (w.toNat % 2 ^ c.bits)

/-- A value of `CW` bits or fewer cut to `CW` bits, so that no unit ever holds more. -/
def elemCW (c : Config) (v : Elem) : Elem := BitVec.ofNat 16 (v.toNat % 2 ^ c.bits)

/-! ### Updates of the state, by name -/

/-- `STATUS`. -/
def State.setStatus (s : State) (v : Status) : State := { s with status := v }

/-- `R_H`, `R_S`, `R_V`. -/
def State.setR (s : State) (v : Hsv) : State := { s with r := v }

/-- `PIX_R`, `PIX_G`, `PIX_B`. -/
def State.setPix (s : State) (v : Pixel) : State := { s with pix := v }

/-- `XR`. -/
def State.setXr (s : State) (v : Word) : State := { s with xr := v }

/-- `SEED_HI ++ SEED_LO`. -/
def State.setSeed (s : State) (lo hi : Word) : State := { s with seedLo := lo, seedHi := hi }

/-- `RND_F`. -/
def State.setRndF (s : State) (v : F32) : State := { s with rndF := v }

/-- `NSPR`. -/
def State.setNspr (s : State) (v : BitVec 11) : State := { s with nspr := v }

/-- `LEN` and `PROTO`. -/
def State.setRenderer (s : State) (len : BitVec 11) (proto : Proto) : State :=
  { s with len := len, proto := proto }

/-- `ACT_*`: all seven together (45_host_control.md R211). -/
def State.setAct (s : State) (m : Message) : State := { s with act := m }

/-- `DUTY_*`. -/
def State.setDuty (s : State) (v : Pixel) : State := { s with duty := v }

/-- The frame buffer. -/
def State.setFb (s : State) (m : Memory Elem) : State := { s with fb := m }

/-- The sprite bank. -/
def State.setSpr (s : State) (m : Memory Sprite) : State := { s with spr := m }

/-- The gamma table. -/
def State.setGamma (s : State) (m : Memory Elem) : State := { s with gamma := m }

/-- The staging buffer. -/
def State.setMsgbuf (s : State) (m : Memory Byte) : State := { s with msgbuf := m }

/-- The events still to come. -/
def State.setPending (s : State) (es : List Event) : State := { s with pending := es }

/-- What the port answers. -/
def State.setAnswer (s : State) (v : Option Word) : State := { s with answer := v }

/-! ### The four memories by index (20_memory.md R70, R72): an access out of range reads 0 and
writes nothing -/

/-- `FB[j]`. -/
def readFb (s : State) (j : Nat) : Elem :=
  if j < s.cfg.fbCap then Memory.read emptyElem s.fb j else 0#16

/-- `FB[j] <- v`. -/
def writeFb (s : State) (j : Nat) (v : Elem) : State :=
  if j < s.cfg.fbCap then s.setFb (Memory.write emptyElem s.fb j (elemCW s.cfg v)) else s

/-- `FB[j] <- 0` for every element: nothing stays listed, and an unlisted element reads as 0. -/
def clearFb (s : State) : State := s.setFb []

/-- `GAMMA[j]`. -/
def readGamma (s : State) (j : Nat) : Elem :=
  if j ≤ s.cfg.chMax then Memory.read emptyElem s.gamma j else 0#16

/-- `GAMMA[j] <- v`. -/
def writeGamma (s : State) (j : Nat) (v : Elem) : State :=
  if j ≤ s.cfg.chMax then s.setGamma (Memory.write emptyElem s.gamma j (elemCW s.cfg v)) else s

/-- `MSGBUF[i]`. -/
def readMsg (s : State) (i : Nat) : Byte :=
  if i < Config.msgLen then Memory.read emptyByte s.msgbuf i else 0#8

/-- `MSGBUF[i] <- v`. -/
def writeMsg (s : State) (i : Nat) (v : Byte) : State :=
  if i < Config.msgLen then s.setMsgbuf (Memory.write emptyByte s.msgbuf i v) else s

/-- `SPR[k]`, all three fields. -/
def readSprite (s : State) (k : Nat) : Sprite :=
  if k < Config.nMax then Memory.read emptySprite s.spr k else emptySprite

/-- `SPR[k] <- v`, all three fields. -/
def writeSprite (s : State) (k : Nat) (v : Sprite) : State :=
  if k < Config.nMax then s.setSpr (Memory.write emptySprite s.spr k v) else s

/-! ### Loops -/

/-- `for i <- 0 to n - 1 in ascending order: body(i)`. -/
def forBelow : Nat → (Nat → State → State) → State → State
  | 0, _, s => s
  | n + 1, body, s => body n (forBelow n body s)

/-! ### The generator, shared by every command that draws (41_lcg.md R130) -/

/-- `SEED`, read as an unsigned 64-bit integer (10_state.md R43). -/
def seedOf (s : State) : Nat := s.seedHi.toNat * 2 ^ 32 + s.seedLo.toNat

/-- The value `next()` gives from a seed (41_lcg.md R132). -/
def lcgStep (seed : Nat) : Nat := (seed * Config.lcgA + Config.lcgC) % Config.lcgM

/-- `next()`: `SEED` becomes the new seed (41_lcg.md R132). -/
def genNext (s : State) : State :=
  s.setSeed (BitVec.ofNat 32 (lcgStep (seedOf s))) (BitVec.ofNat 32 (lcgStep (seedOf s) / 2 ^ 32))

/-- The float `draw()` makes of the new seed (41_lcg.md R134). -/
def drawOfSeed (r : Nat) : F32 := clamp01 (fdiv (i2f (r % 256)) f255)

/-- The float the next `draw()` returns; the state it leaves is that of `genNext`
(41_lcg.md R134). -/
def drawValue (s : State) : F32 := drawOfSeed (lcgStep (seedOf s))

/-! ### The illegal command word

CPRE has no trap, no exception entry and no return from one (60_exceptions.md R235, R237): nothing
is saved and control goes nowhere.  Its one fault-like event is this one. -/

/-- What an illegal command word does: it sets `STATUS.ILL` and changes nothing else
(60_exceptions.md R233). -/
def illegalCommand (s : State) : State := s.setStatus { s.status with ill := true }

/-! ### The reset event -/

/-- The reset event (70_reset_and_hazards.md R250, R251): the architectural state becomes the reset
state, with the memories of unspecified reset contents holding what the event says and `GAMMA`
holding `GAMMA_INIT` where the instance is given one.  The events still to come are not the block's
and stay. -/
def resetEvent (c : ResetContents) (s : State) : State :=
  (State.resetFor s.cfg
    (Memory.load emptyElem s.cfg.fbCap (elemCW s.cfg) c.fb)
    (Memory.load emptySprite Config.nMax id c.spr)
    (Memory.load emptyElem (s.cfg.chMax + 1) (elemCW s.cfg) c.gamma)).setPending s.pending

end Sys2Proof.Machine
end

