-- ==== Sys2Proof/Machine/Operands.lean ====
section
/-! DEFINITION. The operand forms of the commands (30_encoding.md R103): the fields of a command
word, and the registers and message bytes that carry the other operands. -/

namespace Sys2Proof.Machine

open Sys2Proof

/-- A count field clamped to its capacity: `min(n, N_MAX)`, `min(len, PIX_MAX)`
(30_encoding.md R103). -/
def countOperand (n : BitVec 11) (cap : Nat) : Nat := min n.toNat cap

/-- The pixel index of a format X word, zero-extended (30_encoding.md R93). -/
def indexOperand (idx : BitVec 16) : Nat := idx.toNat

/-- The protocol tag of a format C word; 3 is reserved (30_encoding.md R95). -/
def protoOperand : BitVec 2 → Option Proto
  | 0#2 => some .clocked
  | 1#2 => some .single
  | 2#2 => some .pwm
  | _ => none

/-- The number of a protocol tag (10_state.md R47). -/
def protoNumber : Proto → Nat
  | .clocked => 0
  | .single => 1
  | .pwm => 2

/-- The pattern a message's byte 0 names; 5 to 255 name none (30_encoding.md R102). -/
def patternOperand (pid : Nat) : Option Pattern :=
  if pid = 0 then some .allOff
  else if pid = 1 then some .gradient
  else if pid = 2 then some .dual
  else if pid = 3 then some .triangle
  else if pid = 4 then some .random
  else none

/-- The number of a pattern (45_host_control.md R212). -/
def patternNumber : Pattern → Nat
  | .allOff => 0
  | .gradient => 1
  | .dual => 2
  | .triangle => 3
  | .random => 4

/-- Float `j` of the message in `MSGBUF`, little-endian and sanitised (20_memory.md R73,
45_host_control.md R214). -/
def messageFloat (s : State) (j : Nat) : F32 :=
  clamp01 (le32 (readMsg s (1 + 4 * j)) (readMsg s (2 + 4 * j)) (readMsg s (3 + 4 * j))
    (readMsg s (4 + 4 * j)))

/-- The start colour of the message in `MSGBUF` (30_encoding.md R101). -/
def messageStart (s : State) : Hsv :=
  { h := messageFloat s 0, s := messageFloat s 1, v := messageFloat s 2 }

/-- The end colour of the message in `MSGBUF` (30_encoding.md R101). -/
def messageEnd (s : State) : Hsv :=
  { h := messageFloat s 3, s := messageFloat s 4, v := messageFloat s 5 }

/-- `decode_msg()`: the message in `MSGBUF`, `none` where its pattern id is above 4
(45_host_control.md R213, R214). -/
def messageOperand (s : State) : Option Message :=
  (patternOperand (readMsg s 0).toNat).map fun p =>
    { pattern := p, startC := messageStart s, endC := messageEnd s }

/-! ### The register space -/

/-- The registers that have a name (10_state.md R32). -/
inductive Reg where
  | cmd | status | ctrl
  | aH | aS | aV | bH | bS | bV | t | phase
  | rH | rS | rV | pixR | pixG | pixB
  | x0 | x1 | x2 | xr | seedLo | seedHi | rndF | vscale | sscale
  | nspr | len | proto
  | actPattern | actStartH | actStartS | actStartV | actEndH | actEndS | actEndV
  | dutyR | dutyG | dutyB
deriving DecidableEq, Repr

/-- The register map: the place of a register in this list is its number (10_state.md R32). -/
def regMap : List Reg :=
  [.cmd, .status, .ctrl,
   .aH, .aS, .aV, .bH, .bS, .bV, .t, .phase,
   .rH, .rS, .rV, .pixR, .pixG, .pixB,
   .x0, .x1, .x2, .xr, .seedLo, .seedHi, .rndF, .vscale, .sscale,
   .nspr, .len, .proto,
   .actPattern, .actStartH, .actStartS, .actStartV, .actEndH, .actEndS, .actEndV,
   .dutyR, .dutyG, .dutyB]

/-- The register with a number; `none` for the reserved registers 39 to 63 and for a number outside
the space (10_state.md R50, 20_memory.md R72). -/
def regOfNumber (n : Nat) : Option Reg := regMap[n]?

/-- The register number that an access through a byte-addressed bus names: register `n` is at byte
offset `4*n`, and an access that is not one aligned 32-bit unit is treated like one out of range,
which 64 is (10_state.md R31, 20_memory.md R74). -/
def busRegNumber (offset bytes : Nat) : Nat :=
  if bytes = 4 ∧ offset % 4 = 0 then offset / 4 else 64

end Sys2Proof.Machine
end

