-- ==== Sys2Proof/Machine/Flags.lean ====
section
/-! DEFINITION. The flags of CPRE (10_state.md R56): the bits of `STATUS` (R34) and
`CTRL.GAMMA_EN` (R35).  No command computes a condition code. -/

namespace Sys2Proof.Machine

open Sys2Proof

/-- One flag as a word with the flag at bit `i`. -/
def flagBit (f : Bool) (i : Nat) : Nat := if f then 2 ^ i else 0

/-- What a read of `STATUS` gives: `BUSY` (bit 0), bits 6:5 and bits 31:8 read 0
(10_state.md R34). -/
def statusWord (f : Status) : Word :=
  BitVec.ofNat 32
    (flagBit f.rendOk 1 + flagBit f.sprOk 2 + flagBit f.msgValid 3 + flagBit f.msgChanged 4 +
      flagBit f.ill 7)

/-- What a read of `CTRL` gives: bits 31:1 read 0 (10_state.md R35). -/
def ctrlWord (gammaEn : Bool) : Word := BitVec.ofNat 32 (flagBit gammaEn 0)

/-- `GAMMA_EN` as a host write of `CTRL` leaves it; the other bits are ignored
(10_state.md R35). -/
def gammaEnOf (w : Word) : Bool := w.getLsbD 0

/-- `STATUS.REND_OK <- 1` (44_render.md R186). -/
def setRendOk (s : State) : State := s.setStatus { s.status with rendOk := true }

/-- `STATUS.SPR_OK <- 1` (43_sprite.md R162). -/
def setSprOk (s : State) : State := s.setStatus { s.status with sprOk := true }

/-- `STATUS.MSG_VALID` and `STATUS.MSG_CHANGED` as MSG_LOAD leaves them
(45_host_control.md R213). -/
def setMsgFlags (s : State) (valid changed : Bool) : State :=
  s.setStatus { s.status with msgValid := valid, msgChanged := changed }

end Sys2Proof.Machine
end

