-- ==== Sys2Proof/Machine/Color.lean ====
section
/-! DEFINITION. The colour model: HSV2RGB, HSV_INTERP and the gamma stage (spec/42_color.md). -/

namespace Sys2Proof.Machine

open Sys2Proof

/-- `CH_MAXf` (42_color.md R142). -/
def chMaxF (c : Config) : F32 :=
  match c.cw with
  | .w8 => f255
  | .w16 => f65535

/-- The three float channels, before scaling. -/
structure FloatRgb where
  r : F32
  g : F32
  b : F32
deriving DecidableEq, Repr

/-- The row of the sector table (42_color.md R144); `sector` is below 6. -/
def sectorRow (sector : Nat) (v p q t : F32) : FloatRgb :=
  if sector = 0 then ⟨v, t, p⟩
  else if sector = 1 then ⟨q, v, p⟩
  else if sector = 2 then ⟨p, v, t⟩
  else if sector = 3 then ⟨p, q, v⟩
  else if sector = 4 then ⟨t, p, v⟩
  else ⟨v, p, q⟩

/-- The sector of a hue: `f2i(ffloor(h*6)) mod 6` (42_color.md R143). -/
def sectorOf (h : F32) : Nat := (f2i (ffloor (fmul h fSix))).toNat % 6

/-- The fractional remainder `f` of a hue (42_color.md R143). -/
def hueFraction (h : F32) : F32 := fsub (fmul h fSix) (ffloor (fmul h fSix))

/-- `hsv_float(h, s, v)` (42_color.md R143). -/
def hsvFloat (c : Hsv) : FloatRgb :=
  let f := hueFraction c.h
  let p := fmul c.v (fsub fOne c.s)
  let q := fmul c.v (fsub fOne (fmul c.s f))
  let t := fmul c.v (fsub fOne (fmul c.s (fsub fOne f)))
  sectorRow (sectorOf c.h) c.v p q t

/-- `to_channel(x)`, truncating (42_color.md R146). -/
def toChannel (c : Config) (x : F32) : Nat := min (f2i (fmul x (chMaxF c))).toNat c.chMax

/-- `hsv_to_rgb(h, s, v)` (42_color.md R147). -/
def hsvToRgb (c : Config) (x : Hsv) : Pixel :=
  { r := BitVec.ofNat 16 (toChannel c (hsvFloat x).r)
    g := BitVec.ofNat 16 (toChannel c (hsvFloat x).g)
    b := BitVec.ofNat 16 (toChannel c (hsvFloat x).b) }

/-- The gamma stage on one channel (42_color.md R148). -/
def gammaStage (s : State) (x : Elem) : Elem :=
  if s.gammaEn then readGamma s x.toNat else x

/-- `conv(h, s, v)`: the converter as the commands use it (42_color.md R148). -/
def conv (s : State) (x : Hsv) : Pixel :=
  { r := gammaStage s (hsvToRgb s.cfg x).r
    g := gammaStage s (hsvToRgb s.cfg x).g
    b := gammaStage s (hsvToRgb s.cfg x).b }

/-- `lerp1(a, b, tc)`, with the endpoint selected at `tc` = 1.0 (42_color.md R149,
90_conflicts.md C2). -/
def lerp1 (a b tc : F32) : F32 :=
  if feq tc fOne then b else clamp01 (fsub a (fmul (fsub a b) tc))

/-- `hsv_interp(c1, c2, t)` (42_color.md R149). -/
def hsvInterp (c1 c2 : Hsv) (t : F32) : Hsv :=
  { h := lerp1 c1.h c2.h (clamp01 t)
    s := lerp1 c1.s c2.s (clamp01 t)
    v := lerp1 c1.v c2.v (clamp01 t) }

/-- HSV2RGB: `PIX <- conv(A)` (42_color.md R150). -/
def execHsv2rgb (s : State) : Host.Outcome State Fault Refusal :=
  .next (s.setPix (conv s s.a))

/-- HSV_INTERP: `R <- hsv_interp(A, B, T)` (42_color.md R151). -/
def execHsvInterp (s : State) : Host.Outcome State Fault Refusal :=
  .next (s.setR (hsvInterp s.a s.b s.t))

end Sys2Proof.Machine
end

