-- ==== Sys2Proof/Machine/Render.lean ====
section
/-! DEFINITION. The frame renderer: REND_INIT, SET_PIXEL, ALL_OFF and the four fills
(spec/44_render.md). -/

namespace Sys2Proof.Machine

open Sys2Proof

/-- `used(PROTO, LEN)`: how many elements a transport has to send (44_render.md R184). -/
def usedElements (c : Config) (proto : Proto) (len : Nat) : Nat :=
  match proto with
  | .clocked => 4 + 4 * len + c.endLen
  | .single => 3 * len
  | .pwm => 0

/-! ### Construction -/

/-- The header of the clocked-RGB layout (44_render.md R186, R188). -/
def writeHeader (s : State) : State :=
  forBelow 4 (fun j s => writeFb s j s.cfg.hdrVal) s

/-- The brightness elements of `len` clocked-RGB pixels (44_render.md R186, R188). -/
def writeBrightness (len : Nat) (s : State) : State :=
  forBelow len (fun i s => writeFb s (4 + 4 * i) s.cfg.bright) s

/-- The end frame after `len` clocked-RGB pixels (44_render.md R186, R188). -/
def writeEndFrame (len : Nat) (s : State) : State :=
  forBelow s.cfg.endLen (fun e s => writeFb s (4 + 4 * len + e) s.cfg.endVal) s

/-- The framing of a layout; only clocked-RGB has one (44_render.md R186). -/
def writeFraming (proto : Proto) (len : Nat) (s : State) : State :=
  match proto with
  | .clocked => writeEndFrame len (writeBrightness len (writeHeader s))
  | .single | .pwm => s

/-- The logical length REND_INIT sets: `len` clamped to `PIX_MAX`, and to 1 for analog PWM
(44_render.md R186). -/
def renderLength (len : BitVec 11) (proto : Proto) : Nat :=
  match proto with
  | .clocked | .single => countOperand len Config.pixMax
  | .pwm => min (countOperand len Config.pixMax) 1

/-- The construction of a renderer (44_render.md R186). -/
def constructRenderer (len : BitVec 11) (proto : Proto) (s : State) : State :=
  setRendOk ((writeFraming proto (renderLength len proto) ((clearFb s).setDuty Pixel.zero)).setRenderer
    (BitVec.ofNat 11 (renderLength len proto)) proto)

/-- REND_INIT (44_render.md R186).  A word with `proto` = 3 is illegal and the decoder never gives
one; the term does what such a word does (30_encoding.md R99; DESIGN CHOICE, log entry 7). -/
def execRendInit (len : BitVec 11) (proto : BitVec 2) (s : State) :
    Host.Outcome State Fault Refusal :=
  match protoOperand proto with
  | some p => .next (constructRenderer len p s)
  | none => .next (illegalCommand s)

/-! ### The pixel write -/

/-- The elements of a clocked-RGB pixel: brightness, blue, green, red (44_render.md R188). -/
def putClocked (i : Nat) (p : Pixel) (s : State) : State :=
  writeFb (writeFb (writeFb (writeFb s (4 + 4 * i) s.cfg.bright) (4 + 4 * i + 1) p.b)
    (4 + 4 * i + 2) p.g) (4 + 4 * i + 3) p.r

/-- The elements of a single-wire pixel: red, green, blue (44_render.md R189). -/
def putSingle (i : Nat) (p : Pixel) (s : State) : State :=
  writeFb (writeFb (writeFb s (3 * i) p.r) (3 * i + 1) p.g) (3 * i + 2) p.b

/-- `put_pixel(i, (r, g, b))`: nothing where `i >= LEN` (44_render.md R191). -/
def putPixel (i : Nat) (p : Pixel) (s : State) : State :=
  if s.len.toNat ≤ i then s
  else
    match s.proto with
    | .clocked => putClocked i p s
    | .single => putSingle i p s
    | .pwm => s.setDuty p

/-- SET_PIXEL: `put_pixel(idx, PIX)`, without the gamma stage (44_render.md R191). -/
def execSetPixel (idx : BitVec 16) (s : State) : Host.Outcome State Fault Refusal :=
  .next (putPixel (indexOperand idx) s.pix s)

/-- `all_off()` (44_render.md R192). -/
def allOff (s : State) : State :=
  forBelow s.len.toNat (fun i s => putPixel i Pixel.zero s) s

/-- ALL_OFF (44_render.md R192). -/
def execAllOff (s : State) : Host.Outcome State Fault Refusal :=
  .next (allOff s)

/-! ### The fills -/

/-- `render(i, c1, c2, x)` (44_render.md R193). -/
def renderPixel (i : Nat) (c1 c2 : Hsv) (x : F32) (s : State) : State :=
  putPixel i (conv s (hsvInterp c1 c2 x)) s

/-- `pos(i)` on a strip of `len` pixels (44_render.md R195). -/
def posOf (len i : Nat) : F32 :=
  if len = 1 then 0#32 else fdiv (i2f i) (i2f (len - 1))

/-- `fold(x)`, the bipolar fold `|2x - 1|` (44_render.md R197). -/
def fold (x : F32) : F32 := fabs (fsub (fmul x fTwo) fOne)

/-- `(pos + phase) mod 1` (44_render.md R198). -/
def phaseShift (pos phase : F32) : F32 :=
  fsub (fadd pos phase) (ffloor (fadd pos phase))

/-- `fill_gradient(start, end)` (44_render.md R196). -/
def fillGradient (startC endC : Hsv) (s : State) : State :=
  forBelow s.len.toNat (fun i s => renderPixel i startC endC (posOf s.len.toNat i) s) s

/-- `fill_gradient_dual(start, end)`, which passes `end` first (44_render.md R197, R200). -/
def fillGradientDual (startC endC : Hsv) (s : State) : State :=
  forBelow s.len.toNat (fun i s => renderPixel i endC startC (fold (posOf s.len.toNat i)) s) s

/-- `fill_triangle(start, end, phase)`, which passes `end` first (44_render.md R198, R200). -/
def fillTriangle (startC endC : Hsv) (phase : F32) (s : State) : State :=
  forBelow s.len.toNat
    (fun i s => renderPixel i endC startC (fold (phaseShift (posOf s.len.toNat i) phase)) s) s

/-- `fill_random(start, end)`, which passes `end` first and stops at the shorter of the strip and
the bank (44_render.md R199, R200). -/
def fillRandom (startC endC : Hsv) (s : State) : State :=
  forBelow (min s.len.toNat s.nspr.toNat)
    (fun i s => renderPixel i endC startC (readSprite s i).value s) s

/-- FILL_GRADIENT, on A and B (44_render.md R196). -/
def execFillGradient (s : State) : Host.Outcome State Fault Refusal :=
  .next (fillGradient s.a s.b s)

/-- FILL_GRADIENT_DUAL, on A and B (44_render.md R197). -/
def execFillGradientDual (s : State) : Host.Outcome State Fault Refusal :=
  .next (fillGradientDual s.a s.b s)

/-- FILL_TRIANGLE, on A, B and `PHASE` (44_render.md R198). -/
def execFillTriangle (s : State) : Host.Outcome State Fault Refusal :=
  .next (fillTriangle s.a s.b s.phase s)

/-- FILL_RANDOM, on A, B and the sprite bank (44_render.md R199). -/
def execFillRandom (s : State) : Host.Outcome State Fault Refusal :=
  .next (fillRandom s.a s.b s)

end Sys2Proof.Machine
end

