-- ==== Sys2Proof/Machine/Sprite.lean ====
section
/-! DEFINITION. The sprite drift simulator: SPR_INIT and SPR_TICK (spec/43_sprite.md). -/

namespace Sys2Proof.Machine

open Sys2Proof

/-- `new_value()` of a draw (43_sprite.md R161). -/
def scaledValue (s : State) (draw : F32) : F32 := fmul draw s.vscale

/-- `new_step()` of a draw (43_sprite.md R161). -/
def scaledStep (s : State) (draw : F32) : F32 := fmax (fmul draw s.sscale) Config.stepMin

/-- The sprite that construction makes of the next three draws: value, then target, then step
(43_sprite.md R162, R163). -/
def newSprite (s : State) : Sprite :=
  { value := scaledValue s (drawValue s)
    target := scaledValue s (drawValue (genNext s))
    step := scaledStep s (drawValue (genNext (genNext s))) }

/-- Construction of sprite `k`: three draws (43_sprite.md R162). -/
def initSprite (k : Nat) (s : State) : State :=
  writeSprite (genNext (genNext (genNext s))) k (newSprite s)

/-- The sprite a re-target leaves: `value` kept, the next two draws made `target`, then `step`
(43_sprite.md R164, R168). -/
def retarget (s : State) (x : Sprite) : Sprite :=
  { value := x.value
    target := scaledValue s (drawValue s)
    step := scaledStep s (drawValue (genNext s)) }

/-- `update(k)`: exactly one of the three arms runs, on the values the sprite holds at the start of
the tick; only the third draws (43_sprite.md R164, R165). -/
def updateSprite (k : Nat) (s : State) : State :=
  let x := readSprite s k
  if flt x.target x.value then
    writeSprite s k { x with value := fmax (fsub x.value x.step) x.target }
  else if flt x.value x.target then
    writeSprite s k { x with value := fmin (fadd x.value x.step) x.target }
  else
    writeSprite (genNext (genNext s)) k (retarget s x)

/-- The tick of the whole bank, every sprite in ascending order (43_sprite.md R166, R167). -/
def tickSprites (s : State) : State := forBelow s.nspr.toNat updateSprite s

/-- SPR_INIT (43_sprite.md R162). -/
def execSprInit (n : BitVec 11) (s : State) : Host.Outcome State Fault Refusal :=
  .next (setSprOk ((forBelow (countOperand n Config.nMax) initSprite s).setNspr
    (BitVec.ofNat 11 (countOperand n Config.nMax))))

/-- SPR_TICK (43_sprite.md R166). -/
def execSprTick (s : State) : Host.Outcome State Fault Refusal :=
  .next (tickSprites s)

end Sys2Proof.Machine
end

