-- ==== Sys2Proof/Machine/Control.lean ====
section
/-! DEFINITION. The control message and the frame tick: MSG_LOAD and FRAME_TICK
(spec/45_host_control.md). -/

namespace Sys2Proof.Machine

open Sys2Proof

/-- The adoption of a valid message: all seven fields together, and only where the message differs
from the active one (45_host_control.md R213, R215). -/
def adoptMessage (m : Message) (s : State) : State :=
  if m = s.act then setMsgFlags s true false else setMsgFlags (s.setAct m) true true

/-- MSG_LOAD (45_host_control.md R213). -/
def execMsgLoad (s : State) : Host.Outcome State Fault Refusal :=
  match messageOperand s with
  | some m => .next (adoptMessage m s)
  | none => .next (setMsgFlags s false false)

/-- One frame: the fill the active message selects on its colours, then the tick of the sprite bank
where that is pattern 4 (45_host_control.md R212, R217). -/
def frameTick (s : State) : State :=
  match s.act.pattern with
  | .allOff => allOff s
  | .gradient => fillGradient s.act.startC s.act.endC s
  | .dual => fillGradientDual s.act.startC s.act.endC s
  | .triangle => fillTriangle s.act.startC s.act.endC s.phase s
  | .random => tickSprites (fillRandom s.act.startC s.act.endC s)

/-- FRAME_TICK (45_host_control.md R217). -/
def execFrameTick (s : State) : Host.Outcome State Fault Refusal :=
  .next (frameTick s)

end Sys2Proof.Machine
end

