-- ==== Sys2Proof/Machine/Lcg.lean ====
section
/-! DEFINITION. The pseudo-random generator: LCG_NEXT and LCG_NEXT_F (spec/41_lcg.md).  The step and
the draw themselves are shared operations of Machine/Ops.lean. -/

namespace Sys2Proof.Machine

open Sys2Proof

/-- LCG_NEXT: `next()` (41_lcg.md R133). -/
def execLcgNext (s : State) : Host.Outcome State Fault Refusal :=
  .next (genNext s)

/-- LCG_NEXT_F: `RND_F <- draw()` (41_lcg.md R135). -/
def execLcgNextF (s : State) : Host.Outcome State Fault Refusal :=
  .next ((genNext s).setRndF (drawValue s))

end Sys2Proof.Machine
end

