-- ==== Sys2Proof/Machine/ScaleMap.lean ====
section
/-! DEFINITION. The scale and map_range unit: SCALE and MAP_RANGE (spec/40_scale_map.md). -/

namespace Sys2Proof.Machine

open Sys2Proof

/-- `scale(value, factor)`, every intermediate exact (40_scale_map.md R121, R125). -/
def scaleValue (c : Config) (value factor : Nat) : Nat :=
  (value * (min factor c.chMax + 1)) / 2 ^ c.bits

/-- The percentage of `map_range`; 0 where `input_max` is 0 (40_scale_map.md R122). -/
def mapPct (c : Config) (input inputMax : Nat) : Nat :=
  if inputMax = 0 then 0 else (min input inputMax * c.chMax) / inputMax

/-- `map_range(input, input_max, output_max)` (40_scale_map.md R122). -/
def mapRangeValue (c : Config) (input inputMax outputMax : Nat) : Nat :=
  scaleValue c outputMax (mapPct c input inputMax)

/-- SCALE: `XR <- scale(X0, X1)` (40_scale_map.md R123). -/
def execScale (s : State) : Host.Outcome State Fault Refusal :=
  .next (s.setXr (BitVec.ofNat 32 (scaleValue s.cfg s.x0.toNat s.x1.toNat)))

/-- MAP_RANGE: `XR <- map_range(X0, X1, X2)` (40_scale_map.md R124). -/
def execMapRange (s : State) : Host.Outcome State Fault Refusal :=
  .next (s.setXr (BitVec.ofNat 32 (mapRangeValue s.cfg s.x0.toNat s.x1.toNat s.x2.toNat)))

end Sys2Proof.Machine
end

