-- ==== Sys2Proof/Machine/Dispatch.lean ====
section
/-! DEFINITION. Each command's meaning: one arm per row of spec/opcode_table.json. -/

namespace Sys2Proof.Machine

open Sys2Proof

def exec (i : Instr) (s : State) : Host.Outcome State Fault Refusal :=
  match i with
  | .allOff => Sys2Proof.Machine.execAllOff s
  | .fillGradient => Sys2Proof.Machine.execFillGradient s
  | .fillGradientDual => Sys2Proof.Machine.execFillGradientDual s
  | .fillTriangle => Sys2Proof.Machine.execFillTriangle s
  | .fillRandom => Sys2Proof.Machine.execFillRandom s
  | .setPixel idx => Sys2Proof.Machine.execSetPixel idx s
  | .hsv2rgb => Sys2Proof.Machine.execHsv2rgb s
  | .hsvInterp => Sys2Proof.Machine.execHsvInterp s
  | .scale => Sys2Proof.Machine.execScale s
  | .mapRange => Sys2Proof.Machine.execMapRange s
  | .lcgNext => Sys2Proof.Machine.execLcgNext s
  | .lcgNextF => Sys2Proof.Machine.execLcgNextF s
  | .sprInit n => Sys2Proof.Machine.execSprInit n s
  | .sprTick => Sys2Proof.Machine.execSprTick s
  | .rendInit len proto => Sys2Proof.Machine.execRendInit len proto s
  | .msgLoad => Sys2Proof.Machine.execMsgLoad s
  | .frameTick => Sys2Proof.Machine.execFrameTick s

end Sys2Proof.Machine
end

