-- ==== Sys2Proof/Machine/Command.lean ====
section
/-! DEFINITION. What a write of `CMD` does. -/

namespace Sys2Proof.Machine

open Sys2Proof

/-- A write of a command word to `CMD`: the command it spells is executed, or the word is illegal
(10_state.md R33, 30_encoding.md R98, R99). -/
def runCommand (w : Word) (s : State) : Host.Outcome State Fault Refusal :=
  match decode w with
  | .ok i => exec i s
  | .error _ => .next (illegalCommand s)

end Sys2Proof.Machine
end

