-- ==== Sys2Proof/Machine/HostPort.lean ====
section
/-! DEFINITION. The host port: every host access of 20_memory.md R72 but a write of `CMD`, which
executes a command and is `step`'s (10_state.md R33). -/

namespace Sys2Proof.Machine

open Sys2Proof

/-- What a host read of a register gives (10_state.md R32 to R49): 0 for `CMD`. -/
def readReg (s : State) : Reg → Word
  | .cmd => 0#32
  | .status => statusWord s.status
  | .ctrl => ctrlWord s.gammaEn
  | .aH => s.a.h
  | .aS => s.a.s
  | .aV => s.a.v
  | .bH => s.b.h
  | .bS => s.b.s
  | .bV => s.b.v
  | .t => s.t
  | .phase => s.phase
  | .rH => s.r.h
  | .rS => s.r.s
  | .rV => s.r.v
  | .pixR => s.pix.r.setWidth 32
  | .pixG => s.pix.g.setWidth 32
  | .pixB => s.pix.b.setWidth 32
  | .x0 => s.x0
  | .x1 => s.x1
  | .x2 => s.x2
  | .xr => s.xr
  | .seedLo => s.seedLo
  | .seedHi => s.seedHi
  | .rndF => s.rndF
  | .vscale => s.vscale
  | .sscale => s.sscale
  | .nspr => s.nspr.setWidth 32
  | .len => s.len.setWidth 32
  | .proto => BitVec.ofNat 32 (protoNumber s.proto)
  | .actPattern => BitVec.ofNat 32 (patternNumber s.act.pattern)
  | .actStartH => s.act.startC.h
  | .actStartS => s.act.startC.s
  | .actStartV => s.act.startC.v
  | .actEndH => s.act.endC.h
  | .actEndS => s.act.endC.s
  | .actEndV => s.act.endC.v
  | .dutyR => s.duty.r.setWidth 32
  | .dutyG => s.duty.g.setWidth 32
  | .dutyB => s.duty.b.setWidth 32

/-- What a host write of `w` to a register other than `CMD` stores (10_state.md R32): the float
registers store `clamp01(w)` (R36), `PIX_*` store `trunc_CW(w)` (R41), `CTRL` bit 0 (R35), and a
read-only register stores nothing (R31). -/
def writeReg (s : State) (w : Word) : Reg → State
  | .ctrl => { s with gammaEn := gammaEnOf w }
  | .aH => { s with a := { s.a with h := clamp01 w } }
  | .aS => { s with a := { s.a with s := clamp01 w } }
  | .aV => { s with a := { s.a with v := clamp01 w } }
  | .bH => { s with b := { s.b with h := clamp01 w } }
  | .bS => { s with b := { s.b with s := clamp01 w } }
  | .bV => { s with b := { s.b with v := clamp01 w } }
  | .t => { s with t := clamp01 w }
  | .phase => { s with phase := clamp01 w }
  | .pixR => { s with pix := { s.pix with r := truncCW s.cfg w } }
  | .pixG => { s with pix := { s.pix with g := truncCW s.cfg w } }
  | .pixB => { s with pix := { s.pix with b := truncCW s.cfg w } }
  | .x0 => { s with x0 := w }
  | .x1 => { s with x1 := w }
  | .x2 => { s with x2 := w }
  | .seedLo => { s with seedLo := w }
  | .seedHi => { s with seedHi := w }
  | .vscale => { s with vscale := clamp01 w }
  | .sscale => { s with sscale := clamp01 w }
  | .cmd | .status | .rH | .rS | .rV | .xr | .rndF | .nspr | .len | .proto
  | .actPattern | .actStartH | .actStartS | .actStartV | .actEndH | .actEndS | .actEndV
  | .dutyR | .dutyG | .dutyB => s

/-- `MemRead(REG, n)`: 0 for a reserved register and out of range (20_memory.md R72). -/
def readRegNumber (s : State) (n : Nat) : Word :=
  match regOfNumber n with
  | some r => readReg s r
  | none => 0#32

/-- `MemWrite(REG, n, w)` for `n` other than 0: ignored for a reserved register and out of range
(20_memory.md R72). -/
def writeRegNumber (s : State) (n : Nat) (w : Word) : State :=
  match regOfNumber n with
  | some r => writeReg s w r
  | none => s

/-- One field of a sprite. -/
def spriteField (x : Sprite) : SpriteField → F32
  | .value => x.value
  | .target => x.target
  | .step => x.step

/-- `MemRead(SPR, k, f)`: 0 out of range (20_memory.md R72). -/
def readSpriteField (s : State) (k : Nat) (f : SpriteField) : Word :=
  if k < Config.nMax then spriteField (readSprite s k) f else 0#32

/-- The command word of an event that writes `CMD`, register 0 (10_state.md R33). -/
def commandWord : Event → Option Word
  | .regWrite n w => if n = 0 then some w else none
  | .busRegWrite offset bytes w => if busRegNumber offset bytes = 0 then some w else none
  | .regRead _ | .busRegRead _ _ | .fbRead _ | .fbWrite _ _ | .sprRead _ _ | .sprWrite _ _ _
  | .gammaRead _ | .gammaWrite _ _ | .msgRead _ | .msgWrite _ _ | .reset _ => none

/-- What the port answers to an event: the value a read gives, nothing to any other event
(20_memory.md R72). -/
def answerOf (s : State) : Event → Option Word
  | .regRead n => some (readRegNumber s n)
  | .busRegRead offset bytes => some (readRegNumber s (busRegNumber offset bytes))
  | .fbRead j => some ((readFb s j).setWidth 32)
  | .sprRead k f => some (readSpriteField s k f)
  | .gammaRead j => some ((readGamma s j).setWidth 32)
  | .msgRead i => some ((readMsg s i).setWidth 32)
  | .regWrite _ _ | .busRegWrite _ _ _ | .fbWrite _ _ | .sprWrite _ _ _ | .gammaWrite _ _
  | .msgWrite _ _ | .reset _ => none

/-- What an event other than a write of `CMD` does to the block.  A read changes nothing
(20_memory.md R76), a write of `SPR` is ignored (R72). -/
def effectOf (s : State) : Event → State
  | .regWrite n w => writeRegNumber s n w
  | .busRegWrite offset bytes w => writeRegNumber s (busRegNumber offset bytes) w
  | .fbWrite j v => writeFb s j (truncCW s.cfg v)
  | .gammaWrite j v => writeGamma s j (truncCW s.cfg v)
  | .msgWrite i v => writeMsg s i (v.setWidth 8)
  | .reset c => resetEvent c s
  | .regRead _ | .busRegRead _ _ | .fbRead _ | .sprRead _ _ | .sprWrite _ _ _ | .gammaRead _
  | .msgRead _ => s

/-- An event other than a write of `CMD`, with the port's answer. -/
def serve (s : State) (e : Event) : State := (effectOf s e).setAnswer (answerOf s e)

end Sys2Proof.Machine
end

