-- ==== Sys2Proof/Machine/Step.lean ====
section
/-! DEFINITION. One step of CPRE: the next thing the outside world does to it.  CPRE fetches no
instruction (20_memory.md R82); its next command is the next word the host writes to `CMD`. -/

namespace Sys2Proof.Machine

open Sys2Proof

/-- One event, complete before the next (00_scope.md R23, 20_memory.md R79); with none to come the
block waits, unchanged (10_state.md R60). -/
def step (s : State) : Host.Outcome State Fault Refusal :=
  match s.pending with
  | [] => .next s
  | e :: rest =>
    match commandWord e with
    | some w => runCommand w ((s.setPending rest).setAnswer none)
    | none => .next (serve (s.setPending rest) e)

/-- `s` with a write of the command word `w` to `CMD` as the very next event.  The word is all that
a fetch needs: a command has no other words (30_encoding.md R90). -/
def State.withFetchWord (s : State) (nbits w : Nat) : State :=
  s.setPending (.regWrite 0 (BitVec.ofNat 32 (w % 2 ^ nbits)) :: s.pending)

end Sys2Proof.Machine
end

