-- ==== Sys2Proof/Safety.lean ====
section
/-! DEFINITION. The states a run can be in: what the spec says always holds of the registers and the
memories, whatever the outside world does. -/

namespace Sys2Proof.Machine

open Sys2Proof

/-- A PixelHSV with every channel in `[0.0, 1.0]`, no NaN and no `-0.0` (42_color.md R140). -/
abbrev Hsv.InUnit (x : Hsv) : Prop := inUnit x.h ∧ inUnit x.s ∧ inUnit x.v

/-- A Pixel with every channel in `[0, CH_MAX]` (42_color.md R141). -/
abbrev Pixel.Fits (c : Config) (p : Pixel) : Prop :=
  p.r.toNat ≤ c.chMax ∧ p.g.toNat ≤ c.chMax ∧ p.b.toNat ≤ c.chMax

/-- A sprite as the commands leave it: every field in `[0.0, 1.0]` and the step at least `STEP_MIN`
(10_state.md R52). -/
abbrev Sprite.Fits (x : Sprite) : Prop :=
  inUnit x.value ∧ inUnit x.target ∧ inUnit x.step ∧ Config.stepMin.toNat ≤ x.step.toNat

/-- A memory of `cap` elements of `CW` bits, in canonical form. -/
abbrev elemsOk (c : Config) (cap : Nat) (m : Memory Elem) : Prop :=
  Memory.wf emptyElem m ∧ ∀ x ∈ m, x.1 < cap ∧ x.2.toNat ≤ c.chMax

/-- Only the frame buffer and the duty registers differ: all a pixel write may change
(44_render.md R191). -/
abbrev State.sameButPixels (s t : State) : Prop := t = (s.setFb t.fb).setDuty t.duty

/-- Only the sprite bank and `SEED` differ: all a sprite update may change (43_sprite.md R166). -/
abbrev State.sameButBank (s t : State) : Prop :=
  t = (s.setSpr t.spr).setSeed t.seedLo t.seedHi

/-- The invariant of the machine. -/
structure State.Inv (s : State) : Prop where
  /-- 00_scope.md R9. -/
  cfg : s.cfg.WF
  /-- 10_state.md R36. -/
  a : s.a.InUnit
  /-- 10_state.md R36. -/
  b : s.b.InUnit
  /-- 10_state.md R36. -/
  t : inUnit s.t
  /-- 10_state.md R36. -/
  phase : inUnit s.phase
  /-- 10_state.md R36. -/
  r : s.r.InUnit
  /-- 10_state.md R36. -/
  rndF : inUnit s.rndF
  /-- 10_state.md R45. -/
  vscale : inUnit s.vscale
  /-- 10_state.md R45. -/
  sscale : inUnit s.sscale
  /-- 10_state.md R36, 45_host_control.md R214. -/
  actStart : s.act.startC.InUnit
  /-- 10_state.md R36, 45_host_control.md R214. -/
  actEnd : s.act.endC.InUnit
  /-- 10_state.md R41. -/
  pix : s.pix.Fits s.cfg
  /-- 10_state.md R49. -/
  duty : s.duty.Fits s.cfg
  /-- 10_state.md R47. -/
  len : s.len.toNat ≤ Config.pixMax
  /-- 10_state.md R47. -/
  lenPwm : s.proto = .pwm → s.len.toNat ≤ 1
  /-- 10_state.md R46. -/
  nspr : s.nspr.toNat ≤ Config.nMax
  /-- 10_state.md R51. -/
  fb : elemsOk s.cfg s.cfg.fbCap s.fb
  /-- 10_state.md R53. -/
  gamma : elemsOk s.cfg (s.cfg.chMax + 1) s.gamma
  /-- 10_state.md R52. -/
  spr : Memory.wf emptySprite s.spr ∧ ∀ x ∈ s.spr, x.1 < Config.nMax
  /-- 10_state.md R54. -/
  msgbuf : Memory.wf emptyByte s.msgbuf ∧ ∀ x ∈ s.msgbuf, x.1 < Config.msgLen
  /-- 10_state.md R52. -/
  bank : ∀ k, k < s.nspr.toNat → (readSprite s k).Fits

/-! ### The terms the claims are stated in -/

/-- A float that is neither a NaN nor an infinity. -/
abbrev isFinite (a : F32) : Prop := magBits a < infBits

/-- The number a finite float stands for (00_scope.md R15). -/
def floatValue (a : F32) : ℚ := (signedMag a.msb (scaledMag (magBits a)) : ℚ) / 2 ^ 149

/-- `r` is the finite float nearest to `x`, and of two equally near ones the one whose last
fraction bit is 0 (00_scope.md R16). -/
def isNearest (r : F32) (x : ℚ) : Prop :=
  isFinite r ∧
    (∀ c, isFinite c → |floatValue r - x| ≤ |floatValue c - x|) ∧
    (∀ c, isFinite c → |floatValue c - x| = |floatValue r - x| → floatValue c ≠ floatValue r →
      magBits r % 2 = 0)

/-- The opcode map by mask and match, as spec/opcode_table.json states it: (mask, match)
(30_encoding.md R98). -/
def opcodeRows : List (Word × Word) :=
  [(0xFFFFFFFF#32, 0x00000000#32), (0xFFFFFFFF#32, 0x00000001#32), (0xFFFFFFFF#32, 0x00000002#32),
   (0xFFFFFFFF#32, 0x00000003#32), (0xFFFFFFFF#32, 0x00000004#32), (0xFF0000FF#32, 0x00000008#32),
   (0xFFFFFFFF#32, 0x00000010#32), (0xFFFFFFFF#32, 0x00000011#32), (0xFFFFFFFF#32, 0x00000012#32),
   (0xFFFFFFFF#32, 0x00000013#32), (0xFFFFFFFF#32, 0x00000018#32), (0xFFFFFFFF#32, 0x00000019#32),
   (0xFFF800FF#32, 0x00000020#32), (0xFFFFFFFF#32, 0x00000021#32), (0xFCF800FF#32, 0x00000028#32),
   (0xFFFFFFFF#32, 0x00000029#32), (0xFFFFFFFF#32, 0x0000002A#32)]

/-- A word that spells a command: it matches a row, and is no REND_INIT word with `proto` = 3
(30_encoding.md R98, R99). -/
abbrev spellsCommand (w : Word) : Prop :=
  (∃ row ∈ opcodeRows, w &&& row.1 = row.2) ∧
    ¬ (w &&& 0xFCF800FF#32 = 0x00000028#32 ∧ w &&& 0x03000000#32 = 0x03000000#32)

/-- The value that a write of pixel `i` stores in element `j`, if it stores one there
(44_render.md R188 to R191). -/
def storedElement (c : Config) (proto : Proto) (i : Nat) (p : Pixel) (j : Nat) : Option Elem :=
  match proto with
  | .clocked =>
    if j = 4 + 4 * i then some c.bright
    else if j = 4 + 4 * i + 1 then some p.b
    else if j = 4 + 4 * i + 2 then some p.g
    else if j = 4 + 4 * i + 3 then some p.r
    else none
  | .single =>
    if j = 3 * i then some p.r
    else if j = 3 * i + 1 then some p.g
    else if j = 3 * i + 2 then some p.b
    else none
  | .pwm => none

/-- What writing the pixels `0` to `n - 1` in the colours `colour` leaves: each stored element its
value, every other element and every other part of the state as it was, and with analog PWM the
last colour in `DUTY_*` (44_render.md R191, R193, R194). -/
def leavesPixels (s t : State) (n : Nat) (colour : Nat → Pixel) : Prop :=
  s.sameButPixels t ∧
    (∀ i j v, i < n → storedElement s.cfg s.proto i (colour i) j = some v → readFb t j = v) ∧
    (∀ j, (∀ i, i < n → storedElement s.cfg s.proto i (colour i) j = none) →
      readFb t j = readFb s j) ∧
    t.duty = if s.proto = .pwm ∧ 0 < n then colour (n - 1) else s.duty

/-- The colour that pixel `i` of the strip shows (44_render.md R188 to R190). -/
def pixelAt (s : State) (i : Nat) : Pixel :=
  match s.proto with
  | .clocked =>
    { r := readFb s (4 + 4 * i + 3), g := readFb s (4 + 4 * i + 2), b := readFb s (4 + 4 * i + 1) }
  | .single => { r := readFb s (3 * i), g := readFb s (3 * i + 1), b := readFb s (3 * i + 2) }
  | .pwm => s.duty

/-- What an element holds after the construction of a renderer of `len` pixels
(44_render.md R186, R188). -/
def framedElement (c : Config) (proto : Proto) (len j : Nat) : Elem :=
  match proto with
  | .clocked =>
    if j < 4 then c.hdrVal
    else if j < 4 + 4 * len then (if j % 4 = 0 then c.bright else 0#16)
    else if j < 4 + 4 * len + c.endLen then c.endVal
    else 0#16
  | .single | .pwm => 0#16

/-- The elements that no pixel of the strip occupies: framing and padding
(44_render.md R184, R185). -/
def outsidePixels (s : State) (j : Nat) : Prop :=
  match s.proto with
  | .clocked => j < 4 ∨ 4 + 4 * s.len.toNat ≤ j
  | .single => 3 * s.len.toNat ≤ j
  | .pwm => True

/-- SET_PIXEL commands one after the other, each with its own index and colour in `PIX_*`. -/
def setPixels : List (BitVec 16 × Pixel) → State → Host.Outcome State Fault Refusal
  | [], s => .next s
  | (idx, p) :: rest, s =>
    match exec (.setPixel idx) (s.setPix p) with
    | .next t => setPixels rest t
    | .fault r => .fault r
    | .refused r => .refused r

/-- How many of the sprites below `k` a tick re-targets (43_sprite.md R164). -/
def retargetsBelow (s : State) (k : Nat) : Nat :=
  ((List.range k).filter fun i =>
    decide ((readSprite s i).value = (readSprite s i).target)).length

/-- The command whose opcode is the number of a pattern (45_host_control.md R212, R219). -/
def fillOfPattern : Pattern → Instr
  | .allOff => .allOff
  | .gradient => .fillGradient
  | .dual => .fillGradientDual
  | .triangle => .fillTriangle
  | .random => .fillRandom

/-- The host accesses that FRAME_TICK stands for (45_host_control.md R219). -/
def frameTickAccesses (m : Message) : List Event :=
  [.regWrite 3 m.startC.h, .regWrite 4 m.startC.s, .regWrite 5 m.startC.v,
   .regWrite 6 m.endC.h, .regWrite 7 m.endC.s, .regWrite 8 m.endC.v,
   .regWrite 0 (encode (fillOfPattern m.pattern))] ++
  if m.pattern = .random then [.regWrite 0 (encode .sprTick)] else []

end Sys2Proof.Machine
end

