-- ==== Sys2Proof/Certificates/Slice0/Obligations.lean ====
section
/-! DEFINITION. The statements about the machine, rule by rule of the spec. -/

open Sys2Proof Sys2Proof.Machine

/-! ### Encoding -/

/-- 30_encoding.md R92 to R98: the decoder gives back every well-formed command from its word. -/
def Obligations.DecodeInvertsEncode : Prop :=
  ∀ i : Instr, i.WF → decode (encode i) = .ok i

/-- 30_encoding.md R91 to R98: a word that decodes is the encoding of what it decodes to, so no bit
of a word is dropped and no two words spell one command. -/
def Obligations.DecodedWordIsItsEncoding : Prop :=
  ∀ (w : Word) (i : Instr), decode w = .ok i → i.WF ∧ encode i = w

/-- 30_encoding.md R98, R99: the decoder accepts exactly the words that match a row of the opcode
map, REND_INIT words with `proto` = 3 excluded. -/
def Obligations.DecodeAgreesWithMaskAndMatch : Prop :=
  ∀ w : Word, (∃ i, decode w = .ok i) ↔ spellsCommand w

/-- 30_encoding.md R100: the reserved opcodes are illegal whatever the other bits, and no encoding
behaves as another command. -/
def Obligations.ReservedOpcodesAreIllegal : Prop :=
  (∀ w : Word,
    (let op := (opcodeField w).toNat
     (0x05 ≤ op ∧ op ≤ 0x07) ∨ (0x09 ≤ op ∧ op ≤ 0x0F) ∨ (0x14 ≤ op ∧ op ≤ 0x17) ∨
     (0x1A ≤ op ∧ op ≤ 0x1F) ∨ (0x22 ≤ op ∧ op ≤ 0x27) ∨ 0x2B ≤ op) →
    ∃ r, decode w = .error r) ∧
  ∀ (w w' : Word) (i : Instr), decode w = .ok i → decode w' = .ok i → w = w'

/-- 30_encoding.md R106: the worked encodings, each way, and the illegal examples. -/
def Obligations.WorkedEncodings : Prop :=
  (∀ p ∈ ([(0x00000000#32, .allOff), (0x00000001#32, .fillGradient),
      (0x00000002#32, .fillGradientDual), (0x00000003#32, .fillTriangle),
      (0x00000004#32, .fillRandom), (0x00000108#32, .setPixel 1#16),
      (0x00000308#32, .setPixel 3#16), (0x00000010#32, .hsv2rgb), (0x00000011#32, .hsvInterp),
      (0x00000012#32, .scale), (0x00000013#32, .mapRange), (0x00000018#32, .lcgNext),
      (0x00000019#32, .lcgNextF), (0x00000320#32, .sprInit 3#11),
      (0x00040020#32, .sprInit 1024#11), (0x00000021#32, .sprTick),
      (0x00000528#32, .rendInit 5#11 0#2), (0x01000328#32, .rendInit 3#11 1#2),
      (0x02000128#32, .rendInit 1#11 2#2), (0x00040028#32, .rendInit 1024#11 0#2),
      (0x00000029#32, .msgLoad), (0x0000002A#32, .frameTick)] : List (Word × Instr)),
    decode p.1 = .ok p.2 ∧ encode p.2 = p.1) ∧
  ∀ w ∈ [0x00000005#32, 0x00000100#32, 0x01000008#32, 0x03000528#32, 0x00080020#32],
    ∃ r, decode w = .error r

/-! ### The machine -/

/-- 10_state.md R33, 20_memory.md R79: a write of a legal command word to `CMD`, through the port or
as the aligned 32-bit unit at byte offset 0, executes exactly the command it spells; the step takes
the write off the events to come and answers nothing (log entry 2). -/
def Obligations.StepRunsDecodedCommand : Prop :=
  ∀ (s : State) (w : Word) (rest : List Event) (i : Instr), decode w = .ok i →
    (s.pending = .regWrite 0 w :: rest →
      step s = exec i ((s.setPending rest).setAnswer none)) ∧
    (s.pending = .busRegWrite 0 4 w :: rest →
      step s = exec i ((s.setPending rest).setAnswer none))

/-- 20_memory.md R72, R76, R79: a step whose event is no write of `CMD` does what the event does to
the block, complete, gives the port's answer, and takes the event off the events to come
(log entry 2). -/
def Obligations.StepServesHostAccess : Prop :=
  ∀ (s : State) (e : Event) (rest : List Event), s.pending = e :: rest → commandWord e = none →
    step s = .next ((effectOf (s.setPending rest) e).setAnswer (answerOf (s.setPending rest) e))

/-- 30_encoding.md R99: writing an illegal word to `CMD`, through the port or as the aligned 32-bit
unit at byte offset 0, sets `STATUS.ILL` and changes nothing else; the step takes the write off the
events to come and answers nothing (log entry 2). -/
def Obligations.IllegalWordOnlySetsIll : Prop :=
  ∀ (s : State) (w : Word) (rest : List Event),
    s.pending = .regWrite 0 w :: rest ∨ s.pending = .busRegWrite 0 4 w :: rest →
    ¬ spellsCommand w →
    step s = .next { s with status := { s.status with ill := true }, pending := rest, answer := none }

/-- The model's choice (log entry 7), after 60_exceptions.md R233: an ill-formed REND_INIT term, which
no word decodes to, does what the illegal word it would be does. -/
def Obligations.ReservedProtoOnlySetsIll : Prop :=
  ∀ (s : State) (len : BitVec 11),
    exec (.rendInit len 3#2) s = .next { s with status := { s.status with ill := true } }

/-- 60_exceptions.md R242, 10_state.md R60: every state has a successor, whatever comes next, and
with nothing to come the block waits unchanged (the waiting is log entry 2). -/
def Obligations.StepAlwaysAnswersNext : Prop :=
  (∀ s : State, ∃ t, step s = .next t) ∧ ∀ s : State, s.pending = [] → step s = .next s

/-- 10_state.md R34, 60_exceptions.md R233, 70_reset_and_hazards.md R251: only the reset event
clears `ILL`, `REND_OK` and `SPR_OK`. -/
def Obligations.StickyFlagsStayUntilReset : Prop :=
  ∀ s t : State, step s = .next t → (∀ c rest, s.pending ≠ .reset c :: rest) →
    (s.status.ill = true → t.status.ill = true) ∧
    (s.status.rendOk = true → t.status.rendOk = true) ∧
    (s.status.sprOk = true → t.status.sprOk = true)

/-- 10_state.md R34, 60_exceptions.md R233: no command's effect depends on any `STATUS` bit; the
flags gate nothing.  Of two states that differ in `STATUS` alone, a command makes two that differ in
`STATUS` alone, and each flag ends up either the same in both or as it was in both. -/
def Obligations.CommandsIgnoreStatus : Prop :=
  ∀ (i : Instr) (s t : State) (f : Status), exec i s = .next t →
    ∃ f', exec i (s.setStatus f) = .next (t.setStatus f') ∧
      ∀ flag ∈ [Status.rendOk, Status.sprOk, Status.msgValid, Status.msgChanged, Status.ill],
        flag f' = flag t.status ∨ (flag f' = flag f ∧ flag t.status = flag s.status)

/-- 44_render.md R182: no command reads `FB`.  Of two states that differ in `FB` alone, a command
makes two that differ in `FB` alone, and each element ends up either the same in both or as it was
in both. -/
def Obligations.CommandsNeverReadFrameBuffer : Prop :=
  ∀ (i : Instr) (s t : State) (m : Memory Elem),
    Memory.wf emptyElem s.fb → Memory.wf emptyElem m → exec i s = .next t →
    ∃ m', exec i (s.setFb m) = .next (t.setFb m') ∧
      ∀ j, readFb (t.setFb m') j = readFb t j ∨
        (readFb (t.setFb m') j = readFb (s.setFb m) j ∧ readFb t j = readFb s j)

/-- 44_render.md R184, R185: no command but REND_INIT changes an element outside the pixels of the
strip: the header, the end frame and everything beyond. -/
def Obligations.OnlyRendInitChangesFraming : Prop :=
  ∀ (i : Instr) (s t : State) (j : Nat), s.Inv → exec i s = .next t →
    (∀ len proto, i ≠ .rendInit len proto) → outsidePixels s j → readFb t j = readFb s j

/-- 10_state.md R32, 45_host_control.md R216: no command writes a register or a memory that only
the host writes: A, B, `T`, `PHASE`, `X0` to `X2`, `VSCALE`, `SSCALE`, `CTRL`, `GAMMA`,
`MSGBUF`. -/
def Obligations.CommandsKeepHostState : Prop :=
  ∀ (i : Instr) (s t : State), exec i s = .next t →
    t.a = s.a ∧ t.b = s.b ∧ t.t = s.t ∧ t.phase = s.phase ∧ t.x0 = s.x0 ∧ t.x1 = s.x1 ∧
    t.x2 = s.x2 ∧ t.vscale = s.vscale ∧ t.sscale = s.sscale ∧ t.gammaEn = s.gammaEn ∧
    t.gamma = s.gamma ∧ t.msgbuf = s.msgbuf

/-- 41_lcg.md R139: what changes `SEED`.  No command but LCG_NEXT, LCG_NEXT_F, SPR_INIT, SPR_TICK
and, with `ACT_PATTERN` = 4, FRAME_TICK; no other event but a host write of `SEED_LO` or `SEED_HI`
and the reset event. -/
def Obligations.OnlyListedAccessesChangeSeed : Prop :=
  (∀ (i : Instr) (s t : State), exec i s = .next t →
    i ≠ .lcgNext → i ≠ .lcgNextF → i ≠ .sprTick → (∀ n, i ≠ .sprInit n) →
    (i = .frameTick → s.act.pattern ≠ .random) → seedOf t = seedOf s) ∧
  ∀ (s : State) (e : Event),
    (∀ w, e ≠ .regWrite 21 w) → (∀ w, e ≠ .regWrite 22 w) →
    (∀ w, e ≠ .busRegWrite 84 4 w) → (∀ w, e ≠ .busRegWrite 88 4 w) →
    (∀ c, e ≠ .reset c) → seedOf (serve s e) = seedOf s

/-- 00_scope.md R10, 10_state.md R58: the parameters of an implementation never change. -/
def Obligations.StepKeepsParameters : Prop :=
  ∀ s t : State, step s = .next t → t.cfg = s.cfg

/-- 10_state.md R59, 70_reset_and_hazards.md R251, R252: the invariant holds after reset, for every
implementation, with a `GAMMA_INIT` or without, and whatever the memories of unspecified contents
come up holding; the parameters and memory contents of `State.reset` are the model's choice
(log entries 1 and 5). -/
def Obligations.InvariantHoldsAtReset : Prop :=
  State.reset.Inv ∧
  ∀ (c : Config) (fb : Memory Elem) (spr : Memory Sprite) (gamma : Memory Elem),
    c.WF → elemsOk c c.fbCap fb → elemsOk c (c.chMax + 1) gamma →
    Memory.wf emptySprite spr → (∀ x ∈ spr, x.1 < Config.nMax) →
    (State.resetFor c fb spr gamma).Inv

/-- 00_scope.md R21, 10_state.md R36, R41, R46, R47, R49, R52: every step keeps the invariant: every
float in `[0.0, 1.0]`, every element of `CW` bits, `LEN` and `NSPR` in range, every sprite in use
with its fields in `[0.0, 1.0]` and its step at least `STEP_MIN`, and every memory in canonical
form within its space. -/
def Obligations.StepKeepsInvariant : Prop :=
  ∀ s t : State, s.Inv → step s = .next t → t.Inv

/-- 70_reset_and_hazards.md R250 to R252: the reset event gives the reset state, with `GAMMA` holding
`GAMMA_INIT` where the instance is given one, and the memories of unspecified contents holding what
the event says they come up with (an element it does not mention holds the model's choice,
log entry 1); the events still to come stay (log entry 2). -/
def Obligations.ResetEventGivesResetState : Prop :=
  ∀ (s : State) (c : ResetContents) (rest : List Event), s.pending = .reset c :: rest →
    ∃ t, step s = .next t ∧
      t = (State.resetFor s.cfg t.fb t.spr t.gamma).setPending rest ∧
      (∀ j v, j < s.cfg.fbCap → c.fb.find? (fun x => x.1 = j) = some (j, v) →
        readFb t j = elemCW s.cfg v) ∧
      (∀ k v, k < Config.nMax → c.spr.find? (fun x => x.1 = k) = some (k, v) →
        readSprite t k = v) ∧
      (∀ g, s.cfg.gammaInit = some g → t.gamma = g ∧ ∀ j, j ≤ s.cfg.chMax →
        readGamma t j = ((g.find? (fun x => x.1 = j)).map Prod.snd).getD 0#16) ∧
      (s.cfg.gammaInit = none → ∀ j v, j ≤ s.cfg.chMax →
        c.gamma.find? (fun x => x.1 = j) = some (j, v) → readGamma t j = elemCW s.cfg v)

/-! ### The host port -/

/-- 20_memory.md R76: a read changes nothing, and any event but a write of `CMD`, done twice, leaves
what it leaves done once, the port's answer included. -/
def Obligations.AccessesAreIdempotent : Prop :=
  (∀ (s : State) (e : Event) (v : Word), answerOf s e = some v → effectOf s e = s) ∧
  ∀ (s : State) (e : Event), s.Inv → commandWord e = none → serve (serve s e) e = serve s e

/-- 20_memory.md R72, 10_state.md R50: an access out of range, to a reserved register or to a
read-only space reads 0 or writes nothing. -/
def Obligations.OutOfRangeAccessesDoNothing : Prop :=
  ∀ (s : State) (w : Word),
    (∀ n, 39 ≤ n → answerOf s (.regRead n) = some 0#32 ∧ effectOf s (.regWrite n w) = s ∧
      commandWord (.regWrite n w) = none) ∧
    (∀ j, s.cfg.fbCap ≤ j → answerOf s (.fbRead j) = some 0#32 ∧ effectOf s (.fbWrite j w) = s) ∧
    (∀ j, s.cfg.chMax < j →
      answerOf s (.gammaRead j) = some 0#32 ∧ effectOf s (.gammaWrite j w) = s) ∧
    (∀ i, 25 ≤ i → answerOf s (.msgRead i) = some 0#32 ∧ effectOf s (.msgWrite i w) = s) ∧
    (∀ k f, 1024 ≤ k → answerOf s (.sprRead k f) = some 0#32) ∧
    (∀ k f, effectOf s (.sprWrite k f w) = s)

/-- 10_state.md R31, R32, R35, R36, R41 to R43, R45: what a host write of each register, by its
number, does to the whole state: the registers that store store alone, and no memory is touched
(20_memory.md R70); a read-only register stores nothing; a write of register 0 alone starts a command
(R33).  And by name: what reads back, and that no other register changes. -/
def Obligations.RegisterWritesReadBack : Prop :=
  ∀ (s : State) (w : Word),
    let channel : Elem := BitVec.ofNat 16 (w.toNat % 2 ^ s.cfg.bits)
    (∀ n, commandWord (.regWrite n w) = if n = 0 then some w else none) ∧
    effectOf s (.regWrite 2 w) = { s with gammaEn := w.getLsbD 0 } ∧
    effectOf s (.regWrite 3 w) = { s with a := { s.a with h := clamp01 w } } ∧
    effectOf s (.regWrite 4 w) = { s with a := { s.a with s := clamp01 w } } ∧
    effectOf s (.regWrite 5 w) = { s with a := { s.a with v := clamp01 w } } ∧
    effectOf s (.regWrite 6 w) = { s with b := { s.b with h := clamp01 w } } ∧
    effectOf s (.regWrite 7 w) = { s with b := { s.b with s := clamp01 w } } ∧
    effectOf s (.regWrite 8 w) = { s with b := { s.b with v := clamp01 w } } ∧
    effectOf s (.regWrite 9 w) = { s with t := clamp01 w } ∧
    effectOf s (.regWrite 10 w) = { s with phase := clamp01 w } ∧
    effectOf s (.regWrite 14 w) = { s with pix := { s.pix with r := channel } } ∧
    effectOf s (.regWrite 15 w) = { s with pix := { s.pix with g := channel } } ∧
    effectOf s (.regWrite 16 w) = { s with pix := { s.pix with b := channel } } ∧
    effectOf s (.regWrite 17 w) = { s with x0 := w } ∧
    effectOf s (.regWrite 18 w) = { s with x1 := w } ∧
    effectOf s (.regWrite 19 w) = { s with x2 := w } ∧
    effectOf s (.regWrite 21 w) = { s with seedLo := w } ∧
    effectOf s (.regWrite 22 w) = { s with seedHi := w } ∧
    effectOf s (.regWrite 24 w) = { s with vscale := clamp01 w } ∧
    effectOf s (.regWrite 25 w) = { s with sscale := clamp01 w } ∧
    (∀ n, n = 1 ∨ (11 ≤ n ∧ n ≤ 13) ∨ n = 20 ∨ n = 23 ∨ (26 ≤ n ∧ n ≤ 38) →
      effectOf s (.regWrite n w) = s) ∧
    (∀ r ∈ [Reg.aH, .aS, .aV, .bH, .bS, .bV, .t, .phase, .vscale, .sscale],
      readReg (writeReg s w r) r = clamp01 w) ∧
    (∀ r ∈ [Reg.pixR, .pixG, .pixB],
      (readReg (writeReg s w r) r).toNat = w.toNat % 2 ^ s.cfg.bits) ∧
    readReg (writeReg s w .ctrl) .ctrl = w &&& 1#32 ∧
    (∀ r ∈ [Reg.x0, .x1, .x2, .seedLo, .seedHi], readReg (writeReg s w r) r = w) ∧
    (∀ r ∈ [Reg.status, .rH, .rS, .rV, .xr, .rndF, .nspr, .len, .proto, .actPattern, .actStartH,
        .actStartS, .actStartV, .actEndH, .actEndS, .actEndV, .dutyR, .dutyG, .dutyB],
      writeReg s w r = s) ∧
    (∀ r r', r ≠ r' → readReg (writeReg s w r) r' = readReg s r')

/-- 20_memory.md R70, R72: what the host gets from a read in range of each memory; a write of `FB`,
`GAMMA` or `MSGBUF`, at any index, touches no register and no other memory; and a unit written by the
host reads back, cut to its width, and no other unit of its space changes. -/
def Obligations.MemoryWritesReadBack : Prop :=
  ∀ (s : State) (v : Word),
    (∀ j, j < s.cfg.fbCap → answerOf s (.fbRead j) = some ((readFb s j).setWidth 32)) ∧
    (∀ j, j ≤ s.cfg.chMax → answerOf s (.gammaRead j) = some ((readGamma s j).setWidth 32)) ∧
    (∀ i, i < 25 → answerOf s (.msgRead i) = some ((readMsg s i).setWidth 32)) ∧
    (∀ k, k < 1024 → answerOf s (.sprRead k .value) = some (readSprite s k).value ∧
      answerOf s (.sprRead k .target) = some (readSprite s k).target ∧
      answerOf s (.sprRead k .step) = some (readSprite s k).step) ∧
    (∀ j, effectOf s (.fbWrite j v) = s.setFb (effectOf s (.fbWrite j v)).fb) ∧
    (∀ j, effectOf s (.gammaWrite j v) = s.setGamma (effectOf s (.gammaWrite j v)).gamma) ∧
    (∀ i, effectOf s (.msgWrite i v) = s.setMsgbuf (effectOf s (.msgWrite i v)).msgbuf) ∧
    (s.Inv →
      (∀ j i, j < s.cfg.fbCap → (readFb (effectOf s (.fbWrite j v)) i).toNat =
        if i = j then v.toNat % 2 ^ s.cfg.bits else (readFb s i).toNat) ∧
      (∀ j i, j ≤ s.cfg.chMax → (readGamma (effectOf s (.gammaWrite j v)) i).toNat =
        if i = j then v.toNat % 2 ^ s.cfg.bits else (readGamma s i).toNat) ∧
      (∀ j i, j < 25 → (readMsg (effectOf s (.msgWrite j v)) i).toNat =
        if i = j then v.toNat % 256 else (readMsg s i).toNat))

/-- 10_state.md R31, 20_memory.md R74: through a byte-addressed bus register `n` is the aligned
32-bit unit at byte offset `4*n`, and an access of another width or alignment reads 0 and writes
nothing. -/
def Obligations.BusAccessesAreAlignedWords : Prop :=
  ∀ (s : State) (w : Word),
    (∀ n, answerOf s (.busRegRead (4 * n) 4) = answerOf s (.regRead n) ∧
      commandWord (.busRegWrite (4 * n) 4 w) = commandWord (.regWrite n w) ∧
      effectOf s (.busRegWrite (4 * n) 4 w) = effectOf s (.regWrite n w)) ∧
    (∀ offset bytes, bytes ≠ 4 ∨ offset % 4 ≠ 0 →
      answerOf s (.busRegRead offset bytes) = some 0#32 ∧
      commandWord (.busRegWrite offset bytes w) = none ∧
      effectOf s (.busRegWrite offset bytes w) = s)

/-- 10_state.md R32 to R49, 20_memory.md R72: what a host read of each register gives, by its number:
0 for `CMD`; the bits of `STATUS`, `BUSY` and the reserved bits reading 0; the flag of `CTRL`; and
the value of every other register, zero-extended. -/
def Obligations.RegisterReadsGiveRegisters : Prop :=
  ∀ s : State,
    answerOf s (.regRead 0) = some 0#32 ∧
    answerOf s (.regRead 1) = some (readReg s .status) ∧
    (∀ k, (readReg s .status).getLsbD k =
      if k = 1 then s.status.rendOk
      else if k = 2 then s.status.sprOk
      else if k = 3 then s.status.msgValid
      else if k = 4 then s.status.msgChanged
      else if k = 7 then s.status.ill
      else false) ∧
    answerOf s (.regRead 2) = some (if s.gammaEn then 1#32 else 0#32) ∧
    answerOf s (.regRead 3) = some s.a.h ∧
    answerOf s (.regRead 4) = some s.a.s ∧
    answerOf s (.regRead 5) = some s.a.v ∧
    answerOf s (.regRead 6) = some s.b.h ∧
    answerOf s (.regRead 7) = some s.b.s ∧
    answerOf s (.regRead 8) = some s.b.v ∧
    answerOf s (.regRead 9) = some s.t ∧
    answerOf s (.regRead 10) = some s.phase ∧
    answerOf s (.regRead 11) = some s.r.h ∧
    answerOf s (.regRead 12) = some s.r.s ∧
    answerOf s (.regRead 13) = some s.r.v ∧
    answerOf s (.regRead 14) = some (s.pix.r.setWidth 32) ∧
    answerOf s (.regRead 15) = some (s.pix.g.setWidth 32) ∧
    answerOf s (.regRead 16) = some (s.pix.b.setWidth 32) ∧
    answerOf s (.regRead 17) = some s.x0 ∧
    answerOf s (.regRead 18) = some s.x1 ∧
    answerOf s (.regRead 19) = some s.x2 ∧
    answerOf s (.regRead 20) = some s.xr ∧
    answerOf s (.regRead 21) = some s.seedLo ∧
    answerOf s (.regRead 22) = some s.seedHi ∧
    answerOf s (.regRead 23) = some s.rndF ∧
    answerOf s (.regRead 24) = some s.vscale ∧
    answerOf s (.regRead 25) = some s.sscale ∧
    answerOf s (.regRead 26) = some (s.nspr.setWidth 32) ∧
    answerOf s (.regRead 27) = some (s.len.setWidth 32) ∧
    answerOf s (.regRead 28) = some (match s.proto with
      | .clocked => 0#32
      | .single => 1#32
      | .pwm => 2#32) ∧
    answerOf s (.regRead 29) = some (match s.act.pattern with
      | .allOff => 0#32
      | .gradient => 1#32
      | .dual => 2#32
      | .triangle => 3#32
      | .random => 4#32) ∧
    answerOf s (.regRead 30) = some s.act.startC.h ∧
    answerOf s (.regRead 31) = some s.act.startC.s ∧
    answerOf s (.regRead 32) = some s.act.startC.v ∧
    answerOf s (.regRead 33) = some s.act.endC.h ∧
    answerOf s (.regRead 34) = some s.act.endC.s ∧
    answerOf s (.regRead 35) = some s.act.endC.v ∧
    answerOf s (.regRead 36) = some (s.duty.r.setWidth 32) ∧
    answerOf s (.regRead 37) = some (s.duty.g.setWidth 32) ∧
    answerOf s (.regRead 38) = some (s.duty.b.setWidth 32)

/-! ### Float arithmetic -/

/-- 00_scope.md R16, R21: each float operation on finite operands whose exact result has a magnitude
of at most 65535 gives the nearest float, ties to even. -/
def Obligations.FloatOperationsRoundToNearest : Prop :=
  ∀ a b : F32, isFinite a → isFinite b →
    (|floatValue a + floatValue b| ≤ 65535 →
      isNearest (fadd a b) (floatValue a + floatValue b)) ∧
    (|floatValue a - floatValue b| ≤ 65535 →
      isNearest (fsub a b) (floatValue a - floatValue b)) ∧
    (|floatValue a * floatValue b| ≤ 65535 →
      isNearest (fmul a b) (floatValue a * floatValue b)) ∧
    (floatValue b ≠ 0 → |floatValue a / floatValue b| ≤ 65535 →
      isNearest (fdiv a b) (floatValue a / floatValue b))

/-- 00_scope.md R17: `ffloor`, `fabs`, `i2f`, `fmin`, `fmax` and the comparisons. -/
def Obligations.FloatHelpersAreExact : Prop :=
  (∀ a, isFinite a → isFinite (ffloor a) ∧ floatValue (ffloor a) = (⌊floatValue a⌋ : ℚ)) ∧
  (∀ a, (fabs a).toNat = a.toNat % 2 ^ 31) ∧
  (∀ n, n < 2 ^ 24 → isFinite (i2f n) ∧ floatValue (i2f n) = (n : ℚ)) ∧
  (∀ a b, isFinite a → isFinite b →
    fmin a b = (if floatValue a ≤ floatValue b then a else b) ∧
    fmax a b = (if floatValue b ≤ floatValue a then a else b) ∧
    (flt a b = true ↔ floatValue a < floatValue b) ∧
    (fle a b = true ↔ floatValue a ≤ floatValue b) ∧
    (feq a b = true ↔ floatValue a = floatValue b)) ∧
  (∀ a b, isNaN a = true ∨ isNaN b = true → flt a b = false ∧ fle a b = false ∧ feq a b = false)

/-- 00_scope.md R18: `f2i` truncates toward zero and saturates. -/
def Obligations.FloatToIntTruncates : Prop :=
  (∀ a, isNaN a = true → f2i a = 0#32) ∧
  f2i 0x7F800000#32 = 0xFFFFFFFF#32 ∧ f2i 0xFF800000#32 = 0#32 ∧
  ∀ a, isFinite a →
    (floatValue a ≤ 0 → f2i a = 0#32) ∧
    (4294967296 ≤ floatValue a → f2i a = 0xFFFFFFFF#32) ∧
    (0 < floatValue a → floatValue a < 4294967296 →
      ((f2i a).toNat : ℤ) = ⌊floatValue a⌋)

/-- 00_scope.md R19: `clamp01` on every pattern. -/
def Obligations.ClampMapsEveryPattern : Prop :=
  (∀ a, isNaN a = true → clamp01 a = 0x00000000#32) ∧
  clamp01 0x7F800000#32 = 0x3F800000#32 ∧ clamp01 0xFF800000#32 = 0x00000000#32 ∧
  ∀ a, isFinite a →
    (floatValue a ≤ 0 → clamp01 a = 0x00000000#32) ∧
    (1 ≤ floatValue a → clamp01 a = 0x3F800000#32) ∧
    (0 < floatValue a → floatValue a < 1 → clamp01 a = a)

/-! ### Scale and map_range -/

/-- 40_scale_map.md R121, R123: SCALE's result, nothing lost, and that it writes `XR` alone. -/
def Obligations.ScaleComputesExactProduct : Prop :=
  ∀ s : State, ∃ t, exec .scale s = .next t ∧ t = s.setXr t.xr ∧
    t.xr.toNat = (s.x0.toNat * (min s.x1.toNat (2 ^ s.cfg.bits - 1) + 1)) >>> s.cfg.bits ∧
    (2 ^ s.cfg.bits - 1 ≤ s.x1.toNat → t.xr = s.x0) ∧
    (s.x1.toNat = 0 → t.xr.toNat = s.x0.toNat >>> s.cfg.bits) ∧
    (s.x0.toNat = 0 → t.xr.toNat = 0)

/-- 40_scale_map.md R122, R124: MAP_RANGE's result, nothing lost, and that it writes `XR` alone. -/
def Obligations.MapRangeComputesPercentage : Prop :=
  ∀ s : State, ∃ t, exec .mapRange s = .next t ∧ t = s.setXr t.xr ∧
    (0 < s.x1.toNat → t.xr.toNat =
      (s.x2.toNat * ((min s.x0.toNat s.x1.toNat * (2 ^ s.cfg.bits - 1)) / s.x1.toNat + 1)) >>>
        s.cfg.bits) ∧
    (s.x1.toNat = 0 → t.xr.toNat = s.x2.toNat >>> s.cfg.bits) ∧
    (0 < s.x1.toNat → s.x1.toNat ≤ s.x0.toNat → t.xr = s.x2) ∧
    (s.x0.toNat = 0 → t.xr.toNat = s.x2.toNat >>> s.cfg.bits)

/-- 40_scale_map.md R126: the laws (a) to (g) of the unit. -/
def Obligations.ScaleAndMapRangeLaws : Prop :=
  ∀ c : Config,
    (∀ v, scaleValue c v c.chMax = v) ∧
    (∀ v f, scaleValue c v f ≤ v) ∧
    (∀ v v' f f', v ≤ v' → f ≤ f' → scaleValue c v f ≤ scaleValue c v' f') ∧
    (∀ i m o, 0 < m → m ≤ i → mapRangeValue c i m o = o) ∧
    (∀ i i' m o, i ≤ i' → mapRangeValue c i m o ≤ mapRangeValue c i' m o) ∧
    (∀ m o, o < 2 ^ c.bits → mapRangeValue c 0 m o = 0) ∧
    (∀ i m o, mapRangeValue c i m o = mapRangeValue c (min i m) m o)

/-! ### The generator -/

/-- 41_lcg.md R132, R133: LCG_NEXT makes `SEED` the next seed, with `SEED_HI` = 0, and changes
nothing else. -/
def Obligations.LcgNextAdvancesSeed : Prop :=
  ∀ s : State, ∃ t, exec .lcgNext s = .next t ∧ t = s.setSeed t.seedLo t.seedHi ∧
    t.seedHi = 0#32 ∧
    t.seedLo.toNat =
      ((s.seedHi.toNat * 2 ^ 32 + s.seedLo.toNat) * 1103515245 + 12345) % 2 ^ 31

/-- 41_lcg.md R134, R135: LCG_NEXT_F advances the seed once and writes the low byte of the new seed
over 255 to `RND_F`, a float the clamp of the draw leaves as it is; nothing else changes. -/
def Obligations.LcgNextFWritesByteOver255 : Prop :=
  ∀ s : State, ∃ t, exec .lcgNextF s = .next t ∧
    t = (s.setSeed t.seedLo t.seedHi).setRndF t.rndF ∧
    t.seedHi = 0#32 ∧
    t.seedLo.toNat =
      ((s.seedHi.toNat * 2 ^ 32 + s.seedLo.toNat) * 1103515245 + 12345) % 2 ^ 31 ∧
    t.rndF = fdiv (i2f (t.seedLo.toNat % 256)) 0x437F0000#32 ∧ inUnit t.rndF

/-- 41_lcg.md R136: only bits 30:0 of the seed influence a later output, whether the next value or
the float of any later draw; the step may be computed exactly or wrapped to 64 or to 32 bits; and
the rule's two examples. -/
def Obligations.OnlyLowSeedBitsMatter : Prop :=
  (∀ a b k, a % 2 ^ 31 = b % 2 ^ 31 → lcgStep^[k + 1] a = lcgStep^[k + 1] b) ∧
  (∀ a, lcgStep a = (a % 2 ^ 64 * Config.lcgA + Config.lcgC) % 2 ^ 64 % 2 ^ 31 ∧
    lcgStep a = (a % 2 ^ 32 * Config.lcgA + Config.lcgC) % 2 ^ 32 % 2 ^ 31) ∧
  (∀ s t : State, seedOf s % 2 ^ 31 = seedOf t % 2 ^ 31 →
    drawValue s = drawValue t ∧ seedOf (genNext s) = seedOf (genNext t)) ∧
  lcgStep (2 ^ 64 - 1) = 1043980748 ∧ lcgStep (2 ^ 31 - 1) = 1043980748 ∧
  lcgStep (2 ^ 31) = 12345 ∧ lcgStep 0 = 12345

/-- 41_lcg.md R138: the low byte of the seed has period exactly 256, so the draws repeat every 256
and every byte occurs in each period. -/
def Obligations.LowByteHasPeriod256 : Prop :=
  (∀ seed k, lcgStep^[k] seed % 256 = seed % 256 ↔ 256 ∣ k) ∧
  (∀ seed k, 0 < k → drawOfSeed (lcgStep^[k + 256] seed) = drawOfSeed (lcgStep^[k] seed)) ∧
  ∀ seed b, b < 256 → ∃ k, 0 < k ∧ k ≤ 256 ∧ lcgStep^[k] seed % 256 = b

/-! ### The colour model -/

/-- 42_color.md R147, R148, R150: HSV2RGB writes `PIX_*` alone: the truncated channels of A, each
looked up in `GAMMA` where `GAMMA_EN` is 1. -/
def Obligations.Hsv2rgbWritesConvertedPixel : Prop :=
  ∀ s : State, ∃ t, exec .hsv2rgb s = .next t ∧ t = s.setPix t.pix ∧
    (s.gammaEn = false → t.pix = hsvToRgb s.cfg s.a) ∧
    (s.gammaEn = true →
      t.pix.r = readGamma s (hsvToRgb s.cfg s.a).r.toNat ∧
      t.pix.g = readGamma s (hsvToRgb s.cfg s.a).g.toNat ∧
      t.pix.b = readGamma s (hsvToRgb s.cfg s.a).b.toNat)

/-- 42_color.md R143, R144, R146, R147, R153: with the gamma stage off, each channel that HSV2RGB
writes is the truncated product of `CH_MAX` and the float that the sector table names, the sector
being the whole part of `6h` modulo 6 and the floats being rounded step by step. -/
def Obligations.Hsv2rgbFollowsSectorTable : Prop :=
  ∀ s : State, s.Inv → s.gammaEn = false →
    let h6 := fmul s.a.h 0x40C00000#32
    let f := fsub h6 (ffloor h6)
    let v := s.a.v
    let p := fmul v (fsub fOne s.a.s)
    let q := fmul v (fsub fOne (fmul s.a.s f))
    let t := fmul v (fsub fOne (fmul s.a.s (fsub fOne f)))
    let channel := fun x : F32 =>
      ⌊floatValue (fmul x (if s.cfg.cw = .w8 then 0x437F0000#32 else 0x477FFF00#32))⌋
    ∃ u, exec .hsv2rgb s = .next u ∧ ∀ sector : ℤ, sector = ⌊floatValue h6⌋ % 6 →
      ((u.pix.r.toNat : ℤ), (u.pix.g.toNat : ℤ), (u.pix.b.toNat : ℤ)) =
        if sector = 0 then (channel v, channel t, channel p)
        else if sector = 1 then (channel q, channel v, channel p)
        else if sector = 2 then (channel p, channel v, channel t)
        else if sector = 3 then (channel p, channel q, channel v)
        else if sector = 4 then (channel t, channel p, channel v)
        else (channel v, channel p, channel q)

/-- 42_color.md R150, R152: with the gamma stage off, saturation 0 gives three equal channels
whatever the hue, value 0 gives black, and hue 1.0 gives what hue 0.0 gives. -/
def Obligations.Hsv2rgbCornerCases : Prop :=
  ∀ s : State, s.Inv → s.gammaEn = false →
    ∃ t, exec .hsv2rgb s = .next t ∧
      (s.a.s = 0#32 → t.pix.r.toNat = toChannel s.cfg s.a.v ∧
        t.pix.g.toNat = toChannel s.cfg s.a.v ∧ t.pix.b.toNat = toChannel s.cfg s.a.v) ∧
      (s.a.v = 0#32 → t.pix = Pixel.zero) ∧
      (s.a.h = fOne → ∃ u, exec .hsv2rgb { s with a := { s.a with h := 0#32 } } = .next u ∧
        u.pix = t.pix)

/-- 42_color.md R146: a channel is the truncation of the rounded product, and only `1.0` gives
`CH_MAX`. -/
def Obligations.ChannelTruncates : Prop :=
  ∀ (c : Config) (x : F32), inUnit x →
    (toChannel c x : ℤ) = ⌊floatValue (fmul x (chMaxF c))⌋ ∧
    (toChannel c x = c.chMax ↔ x = 0x3F800000#32)

/-- 42_color.md R144, R154: the sector, fraction and float channels at the sector boundaries. -/
def Obligations.SectorBoundaries : Prop :=
  [0x00000000#32, 0x3E2AAAAB#32, 0x3EAAAAAB#32, 0x3F000000#32, 0x3F2AAAAB#32, 0x3F555555#32,
    0x3F800000#32].map (fun h => (sectorOf h, hueFraction h)) =
    [(0, 0#32), (1, 0#32), (2, 0#32), (3, 0#32), (4, 0#32), (5, 0#32), (0, 0#32)] ∧
  sectorOf 0x3F7FFFFF#32 = 5 ∧ hueFraction 0x3F7FFFFF#32 = 0x3F7FFFF8#32 ∧
  hsvFloat { h := 0x3F7FFFFF#32, s := fOne, v := fOne } =
    { r := 0x3F800000#32, g := 0x00000000#32, b := 0x35000000#32 }

/-- 42_color.md R149, R151, R152: HSV_INTERP writes `R_*` alone, by the formula on each channel
unless `T` is 1.0; it gives A bit for bit at `T` = 0.0, B at `T` = 1.0, and A where A = B. -/
def Obligations.HsvInterpIsExactAtEnds : Prop :=
  ∀ s : State, s.Inv → ∃ t, exec .hsvInterp s = .next t ∧ t = s.setR t.r ∧
    (s.t ≠ fOne →
      t.r.h = clamp01 (fsub s.a.h (fmul (fsub s.a.h s.b.h) s.t)) ∧
      t.r.s = clamp01 (fsub s.a.s (fmul (fsub s.a.s s.b.s) s.t)) ∧
      t.r.v = clamp01 (fsub s.a.v (fmul (fsub s.a.v s.b.v) s.t))) ∧
    (s.t = 0#32 → t.r = s.a) ∧
    (s.t = fOne → t.r = s.b) ∧
    (s.a = s.b → t.r = s.a)

/-! ### The sprites -/

/-- 43_sprite.md R161 to R163: SPR_INIT makes `min(n, N_MAX)` sprites of three draws each, in the
order value, target, step, and leaves the other entries. -/
def Obligations.SprInitDrawsInOrder : Prop :=
  ∀ (s : State) (n : BitVec 11), s.Inv → ∃ t, exec (.sprInit n) s = .next t ∧
    t = (((s.setSpr t.spr).setSeed t.seedLo t.seedHi).setNspr t.nspr).setStatus
      { s.status with sprOk := true } ∧
    t.nspr.toNat = min n.toNat 1024 ∧
    seedOf t = lcgStep^[3 * min n.toNat 1024] (seedOf s) ∧
    (∀ k, k < min n.toNat 1024 → readSprite t k =
      { value := fmul (drawOfSeed (lcgStep^[3 * k + 1] (seedOf s))) s.vscale
        target := fmul (drawOfSeed (lcgStep^[3 * k + 2] (seedOf s))) s.vscale
        step := fmax (fmul (drawOfSeed (lcgStep^[3 * k + 3] (seedOf s))) s.sscale)
          0x3A83126F#32 }) ∧
    (∀ k, min n.toNat 1024 ≤ k → readSprite t k = readSprite s k)

/-- 43_sprite.md R164 to R168: SPR_TICK moves every sprite that is not at its target toward it, and
re-targets the others with two draws each, target then step, in ascending order; the other entries
stay. -/
def Obligations.SprTickUpdatesEverySprite : Prop :=
  ∀ s : State, s.Inv → ∃ t, exec .sprTick s = .next t ∧ s.sameButBank t ∧
    seedOf t = lcgStep^[2 * retargetsBelow s s.nspr.toNat] (seedOf s) ∧
    (∀ k, k < s.nspr.toNat →
      (floatValue (readSprite s k).target < floatValue (readSprite s k).value → readSprite t k =
        { readSprite s k with
          value := fmax (fsub (readSprite s k).value (readSprite s k).step)
            (readSprite s k).target }) ∧
      (floatValue (readSprite s k).value < floatValue (readSprite s k).target → readSprite t k =
        { readSprite s k with
          value := fmin (fadd (readSprite s k).value (readSprite s k).step)
            (readSprite s k).target }) ∧
      (floatValue (readSprite s k).value = floatValue (readSprite s k).target → readSprite t k =
        { value := (readSprite s k).value
          target := fmul (drawOfSeed (lcgStep^[2 * retargetsBelow s k + 1] (seedOf s))) s.vscale
          step := fmax (fmul (drawOfSeed (lcgStep^[2 * retargetsBelow s k + 2] (seedOf s)))
            s.sscale) 0x3A83126F#32 })) ∧
    (∀ k, s.nspr.toNat ≤ k → readSprite t k = readSprite s k)

/-- 43_sprite.md R169: the drift is strictly toward the target and never beyond it. -/
def Obligations.SpriteDriftNeverOvershoots : Prop :=
  ∀ s : State, s.Inv → ∃ t, exec .sprTick s = .next t ∧ ∀ k, k < s.nspr.toNat →
    (floatValue (readSprite s k).target < floatValue (readSprite s k).value →
      floatValue (readSprite s k).target ≤ floatValue (readSprite t k).value ∧
      floatValue (readSprite t k).value < floatValue (readSprite s k).value) ∧
    (floatValue (readSprite s k).value < floatValue (readSprite s k).target →
      floatValue (readSprite s k).value < floatValue (readSprite t k).value ∧
      floatValue (readSprite t k).value ≤ floatValue (readSprite s k).target) ∧
    (floatValue (readSprite s k).value ≠ floatValue (readSprite s k).target →
      (readSprite t k).target = (readSprite s k).target ∧
      (readSprite t k).step = (readSprite s k).step)

/-! ### The renderer -/

/-- 44_render.md R184, R186, R188: REND_INIT sets `LEN`, `PROTO` and `REND_OK`, clears `DUTY_*`, and
leaves each element of `FB` at 0 or at its framing value; nothing else changes. -/
def Obligations.RendInitBuildsFrame : Prop :=
  ∀ (s : State) (len : BitVec 11) (p : BitVec 2), s.cfg.WF → p ≠ 3#2 →
    ∃ t, exec (.rendInit len p) s = .next t ∧
      t = (((s.setFb t.fb).setDuty Pixel.zero).setRenderer t.len t.proto).setStatus
        { s.status with rendOk := true } ∧
      protoNumber t.proto = p.toNat ∧
      t.len.toNat = (if p = 2#2 then min (min len.toNat 1024) 1 else min len.toNat 1024) ∧
      (∀ j, j < s.cfg.fbCap → readFb t j = framedElement s.cfg t.proto t.len.toNat j) ∧
      (∀ j, usedElements s.cfg t.proto t.len.toNat ≤ j → readFb t j = 0#16)

/-- 44_render.md R186: an ALL_OFF directly after a REND_INIT changes nothing. -/
def Obligations.AllOffAfterRendInitChangesNothing : Prop :=
  ∀ (s t : State) (len : BitVec 11) (p : BitVec 2), p ≠ 3#2 →
    exec (.rendInit len p) s = .next t → exec .allOff t = .next t

/-- 44_render.md R188 to R191: SET_PIXEL writes the elements (or the duty registers) of the pixel at
`idx` with `PIX`, whatever `GAMMA_EN`, and nothing else; it does nothing where `idx >= LEN`. -/
def Obligations.SetPixelWritesOnePixel : Prop :=
  ∀ (s : State) (idx : BitVec 16), s.Inv → ∃ t, exec (.setPixel idx) s = .next t ∧
    (s.len.toNat ≤ idx.toNat → t = s) ∧
    (idx.toNat < s.len.toNat → s.sameButPixels t ∧
      (∀ j v, storedElement s.cfg s.proto idx.toNat s.pix j = some v → readFb t j = v) ∧
      (∀ j, storedElement s.cfg s.proto idx.toNat s.pix j = none → readFb t j = readFb s j) ∧
      t.duty = if s.proto = .pwm then s.pix else s.duty)

/-- 44_render.md R192: ALL_OFF makes every in-use pixel black, without the gamma stage, and changes
nothing else. -/
def Obligations.AllOffBlackensPixels : Prop :=
  ∀ s : State, s.Inv → ∃ t, exec .allOff s = .next t ∧
    leavesPixels s t s.len.toNat fun _ => Pixel.zero

/-- 44_render.md R193, R195, R196: FILL_GRADIENT renders A to B along the strip. -/
def Obligations.FillGradientRendersPositions : Prop :=
  ∀ s : State, s.Inv → ∃ t, exec .fillGradient s = .next t ∧
    leavesPixels s t s.len.toNat fun i =>
      conv s (hsvInterp s.a s.b
        (if s.len.toNat = 1 then 0#32 else fdiv (i2f i) (i2f (s.len.toNat - 1))))

/-- 44_render.md R193, R195, R197: FILL_GRADIENT_DUAL renders B to A along the folded strip. -/
def Obligations.FillGradientDualRendersFold : Prop :=
  ∀ s : State, s.Inv → ∃ t, exec .fillGradientDual s = .next t ∧
    leavesPixels s t s.len.toNat fun i =>
      conv s (hsvInterp s.b s.a (fabs (fsub (fmul
        (if s.len.toNat = 1 then 0#32 else fdiv (i2f i) (i2f (s.len.toNat - 1)))
        0x40000000#32) fOne)))

/-- 44_render.md R193, R195, R198: FILL_TRIANGLE renders B to A along the strip shifted by `PHASE`
modulo 1 and folded. -/
def Obligations.FillTriangleRendersShiftedFold : Prop :=
  ∀ s : State, s.Inv → ∃ t, exec .fillTriangle s = .next t ∧
    leavesPixels s t s.len.toNat fun i =>
      let x := fadd (if s.len.toNat = 1 then 0#32 else fdiv (i2f i) (i2f (s.len.toNat - 1))) s.phase
      conv s (hsvInterp s.b s.a
        (fabs (fsub (fmul (fsub x (ffloor x)) 0x40000000#32) fOne)))

/-- 44_render.md R193, R199: FILL_RANDOM renders B to A by the sprites' values, as far as both strip
and bank reach, and leaves the bank and the seed. -/
def Obligations.FillRandomRendersSprites : Prop :=
  ∀ s : State, s.Inv → ∃ t, exec .fillRandom s = .next t ∧
    leavesPixels s t (min s.len.toNat s.nspr.toNat) fun i =>
      conv s (hsvInterp s.b s.a (readSprite s i).value)

/-- 44_render.md R196, R201: the first pixel of a gradient is exactly A, the last exactly B. -/
def Obligations.GradientEndsAreExact : Prop :=
  ∀ s : State, s.Inv → 1 ≤ s.len.toNat → ∃ t, exec .fillGradient s = .next t ∧
    pixelAt t 0 = conv s s.a ∧
    (2 ≤ s.len.toNat → pixelAt t (s.len.toNat - 1) = conv s s.b)

/-- 44_render.md R197, R201: both ends of a dual gradient are exactly A, and the middle of an odd
strip is exactly B. -/
def Obligations.DualGradientEndsAndMiddleAreExact : Prop :=
  ∀ s : State, s.Inv → 1 ≤ s.len.toNat → ∃ t, exec .fillGradientDual s = .next t ∧
    pixelAt t 0 = conv s s.a ∧
    pixelAt t (s.len.toNat - 1) = conv s s.a ∧
    (3 ≤ s.len.toNat → s.len.toNat % 2 = 1 →
      pixelAt t ((s.len.toNat - 1) / 2) = conv s s.b)

/-- 44_render.md R202: with `PHASE` = 0.0, FILL_TRIANGLE does exactly what FILL_GRADIENT_DUAL does,
since the shift by 0.0 leaves every position below 1.0, and takes 1.0 to 0.0, which folds alike. -/
def Obligations.TriangleAtPhaseZeroIsDualGradient : Prop :=
  (∀ s : State, s.Inv → s.phase = 0#32 → exec .fillTriangle s = exec .fillGradientDual s) ∧
  (∀ p : F32, inUnit p → p ≠ fOne →
    fadd p 0#32 = p ∧ ffloor p = 0#32 ∧ phaseShift p 0#32 = p) ∧
  phaseShift fOne 0#32 = 0#32 ∧ fold 0#32 = fOne ∧ fold fOne = fOne

/-- 44_render.md R201: ALL_OFF, then any SET_PIXELs, then ALL_OFF gives back the all-off buffer. -/
def Obligations.AllOffRoundTrip : Prop :=
  ∀ (s : State) (ps : List (BitVec 16 × Pixel)), s.Inv →
    ∃ t u v, exec .allOff s = .next t ∧ setPixels ps t = .next u ∧ exec .allOff u = .next v ∧
      v.fb = t.fb ∧ v.duty = t.duty

/-! ### The control message and the frame tick -/

/-- 45_host_control.md R213 to R215: MSG_LOAD decodes and sanitises the 25 bytes, drops a message
with a pattern id above 4, reports one equal to the active message, and adopts any other whole. -/
def Obligations.MsgLoadAdoptsValidMessages : Prop :=
  ∀ s : State,
    (4 < (readMsg s 0).toNat → exec .msgLoad s =
      .next (s.setStatus { s.status with msgValid := false, msgChanged := false })) ∧
    (∀ m : Message, patternNumber m.pattern = (readMsg s 0).toNat →
      [m.startC.h, m.startC.s, m.startC.v, m.endC.h, m.endC.s, m.endC.v] =
        (List.range 6).map (fun j => clamp01 (BitVec.ofNat 32
          ((readMsg s (1 + 4 * j)).toNat + (readMsg s (2 + 4 * j)).toNat * 2 ^ 8 +
            (readMsg s (3 + 4 * j)).toNat * 2 ^ 16 + (readMsg s (4 + 4 * j)).toNat * 2 ^ 24))) →
      (m = s.act → exec .msgLoad s =
        .next (s.setStatus { s.status with msgValid := true, msgChanged := false })) ∧
      (m ≠ s.act → exec .msgLoad s =
        .next ((s.setAct m).setStatus { s.status with msgValid := true, msgChanged := true })))

/-- 45_host_control.md R217, R219: FRAME_TICK leaves what the host leaves that writes the active
colours to A and B, issues the fill whose opcode is `ACT_PATTERN` and, with pattern 4, SPR_TICK,
except that A and B (and the port's last answer, log entry 2) stay as they were. -/
def Obligations.FrameTickIsHostSequence : Prop :=
  ∀ s : State, s.Inv → ∃ t u, exec .frameTick s = .next t ∧
    Sys2Proof.core.run (frameTickAccesses s.act).length
      (s.setPending (frameTickAccesses s.act ++ s.pending)) = .next u ∧
    t = { u with a := s.a, b := s.b, answer := s.answer }
end

