-- ==== Sys2Proof/Laws/Memory.lean ====
section
/-! SUPPORT. What a memory reads as after a write, and that every memory operation keeps the
canonical form. -/

namespace Sys2Proof.Machine

open Sys2Proof

@[simp] theorem Memory.read_nil {α : Type} (d : α) (j : Nat) : Memory.read d [] j = d := rfl

theorem Memory.read_cons {α : Type} (d : α) (k : Nat) (u : α) (m : Memory α) (j : Nat) :
    Memory.read d ((k, u) :: m) j = if k = j then u else Memory.read d m j := rfl

/-- An index below every listed one reads as unlisted. -/
theorem Memory.read_below {α : Type} {d : α} (m : Memory α) (j : Nat) (h : ∀ c ∈ m, j < c.1) :
    Memory.read d m j = d := by
  induction m with
  | nil => rfl
  | cons c m ih =>
    obtain ⟨k, u⟩ := c
    simp only [List.forall_mem_cons] at h
    rw [Memory.read_cons, if_neg (by omega), ih h.2]

/-- What the listed cells of a memory all satisfy, its reads satisfy, if the unlisted ones do. -/
theorem Memory.read_induction {α : Type} {d : α} {P : α → Prop} (m : Memory α) (hd : P d)
    (h : ∀ c ∈ m, P c.2) (j : Nat) : P (Memory.read d m j) := by
  induction m with
  | nil => exact hd
  | cons e m ih =>
    obtain ⟨k, u⟩ := e
    simp only [List.forall_mem_cons] at h
    rw [Memory.read_cons]
    split
    · exact h.1
    · exact ih h.2

variable {α : Type} [DecidableEq α] {d : α}

theorem Memory.wf_nil (d : α) : Memory.wf d ([] : Memory α) := by simp [Memory.wf]

/-- A canonical memory is its first cell, which is not empty, and a canonical rest above it. -/
theorem Memory.wf_cons (k : Nat) (u : α) (m : Memory α) :
    Memory.wf d ((k, u) :: m) ↔ (∀ c ∈ m, k < c.1) ∧ u ≠ d ∧ Memory.wf d m := by
  simp only [Memory.wf, List.pairwise_cons, List.forall_mem_cons]
  tauto

/-- Every cell of the written memory is the written one or was there before. -/
theorem Memory.mem_write (m : Memory α) (j : Nat) (v : α) {c : Nat × α}
    (h : c ∈ Memory.write d m j v) : c = (j, v) ∨ c ∈ m := by
  induction m with
  | nil =>
    simp only [Memory.write] at h
    split at h <;> simp_all
  | cons e m ih =>
    obtain ⟨k, u⟩ := e
    simp only [Memory.write] at h
    split at h
    · split at h <;> simp_all
    · split at h
      · split at h
        · exact .inr (List.mem_cons_of_mem _ h)
        · simp only [List.mem_cons] at h ⊢
          tauto
      · simp only [List.mem_cons] at h ⊢
        rcases h with h | h
        · exact .inr (.inl h)
        · rcases ih h with h | h
          · exact .inl h
          · exact .inr (.inr h)

/-- A write keeps the canonical form. -/
theorem Memory.wf_write (m : Memory α) (j : Nat) (v : α) (h : Memory.wf d m) :
    Memory.wf d (Memory.write d m j v) := by
  induction m with
  | nil =>
    simp only [Memory.write]
    split
    · exact h
    · exact (Memory.wf_cons _ _ _).2 ⟨by simp, ‹_›, h⟩
  | cons e m ih =>
    obtain ⟨k, u⟩ := e
    obtain ⟨habove, hu, hm⟩ := (Memory.wf_cons k u m).1 h
    simp only [Memory.write]
    split
    · split
      · exact h
      · refine (Memory.wf_cons _ _ _).2 ⟨?_, ‹_›, h⟩
        simp only [List.forall_mem_cons]
        exact ⟨‹_›, fun c hc => lt_trans ‹_› (habove c hc)⟩
    · split
      · split
        · exact hm
        · subst_vars
          exact (Memory.wf_cons _ _ _).2 ⟨habove, ‹_›, hm⟩
      · refine (Memory.wf_cons _ _ _).2 ⟨fun c hc => ?_, hu, ih hm⟩
        rcases Memory.mem_write m j v hc with rfl | hc
        · show k < j; omega
        · exact habove c hc

/-- The read of any index after a write. -/
theorem Memory.read_write (m : Memory α) (j : Nat) (v : α) (i : Nat) (h : Memory.wf d m) :
    Memory.read d (Memory.write d m j v) i = if i = j then v else Memory.read d m i := by
  induction m with
  | nil =>
    simp only [Memory.write]
    split
    · split <;> simp_all
    · simp only [Memory.read]
      split <;> split <;> simp_all
  | cons e m ih =>
    obtain ⟨k, u⟩ := e
    obtain ⟨habove, hu, hm⟩ := (Memory.wf_cons k u m).1 h
    simp only [Memory.write]
    split
    · have hj : Memory.read d ((k, u) :: m) j = d := Memory.read_below _ _ (by
        simp only [List.forall_mem_cons]
        exact ⟨‹_›, fun c hc => lt_trans ‹_› (habove c hc)⟩)
      split
      · split
        · subst_vars; exact hj
        · rfl
      · rw [Memory.read_cons d j]
        by_cases hi : i = j
        · simp [hi]
        · simp [hi, Ne.symm hi]
    · split
      · rename_i _ hjk
        subst hjk
        have hj : Memory.read d m j = d := Memory.read_below _ _ habove
        split
        · rw [Memory.read_cons]
          by_cases hi : i = j
          · subst hi
            rw [if_pos rfl, hj]
            exact Eq.symm ‹_›
          · simp [hi, Ne.symm hi]
        · rw [Memory.read_cons, Memory.read_cons]
          by_cases hi : i = j
          · simp [hi]
          · simp [hi, Ne.symm hi]
      · rw [Memory.read_cons, Memory.read_cons, ih hm]
        by_cases hk : k = i
        · subst hk
          rw [if_pos rfl, if_neg (by omega), if_pos rfl]
        · simp [hk]

theorem Memory.read_write_same (m : Memory α) (j : Nat) (v : α) (h : Memory.wf d m) :
    Memory.read d (Memory.write d m j v) j = v := by
  rw [Memory.read_write m j v j h, if_pos rfl]

theorem Memory.read_write_other (m : Memory α) {j i : Nat} (v : α) (h : Memory.wf d m)
    (hi : i ≠ j) : Memory.read d (Memory.write d m j v) i = Memory.read d m i := by
  rw [Memory.read_write m j v i h, if_neg hi]

/-- Canonical memories that read alike are equal: the form is canonical. -/
theorem Memory.ext_read (m m' : Memory α) (h : Memory.wf d m) (h' : Memory.wf d m')
    (hr : ∀ j, Memory.read d m j = Memory.read d m' j) : m = m' := by
  induction m generalizing m' with
  | nil =>
    cases m' with
    | nil => rfl
    | cons e m' =>
      obtain ⟨k, u⟩ := e
      have hu := ((Memory.wf_cons k u m').1 h').2.1
      have := hr k
      simp [Memory.read_cons] at this
      exact absurd this.symm hu
  | cons e m ih =>
    obtain ⟨k, u⟩ := e
    obtain ⟨ha, hu, hm⟩ := (Memory.wf_cons k u m).1 h
    cases m' with
    | nil =>
      have := hr k
      simp [Memory.read_cons] at this
      exact absurd this hu
    | cons e' m' =>
      obtain ⟨k', u'⟩ := e'
      obtain ⟨ha', hu', hm'⟩ := (Memory.wf_cons k' u' m').1 h'
      have hk : k = k' := by
        rcases lt_trichotomy k k' with hlt | heq | hgt
        · have h1 := hr k
          rw [Memory.read_cons, if_pos rfl, Memory.read_below _ _ (by
            simp only [List.forall_mem_cons]
            exact ⟨hlt, fun c hc => lt_trans hlt (ha' c hc)⟩)] at h1
          exact absurd h1 hu
        · exact heq
        · have h1 := hr k'
          rw [Memory.read_cons d k' u', if_pos rfl, Memory.read_below _ _ (by
            simp only [List.forall_mem_cons]
            exact ⟨hgt, fun c hc => lt_trans hgt (ha c hc)⟩)] at h1
          exact absurd h1.symm hu'
      subst hk
      have hu2 : u = u' := by
        have h1 := hr k
        simpa [Memory.read_cons] using h1
      subst hu2
      congr 1
      refine ih m' hm hm' fun j => ?_
      have h1 := hr j
      rw [Memory.read_cons, Memory.read_cons] at h1
      by_cases hj : k = j
      · subst hj
        rw [Memory.read_below _ _ ha, Memory.read_below _ _ ha']
      · simpa [hj] using h1

/-- Writing what is there changes nothing. -/
theorem Memory.write_read (m : Memory α) (j : Nat) (h : Memory.wf d m) :
    Memory.write d m j (Memory.read d m j) = m := by
  refine Memory.ext_read _ _ (Memory.wf_write _ _ _ h) h fun i => ?_
  rw [Memory.read_write _ _ _ _ h]
  split
  · subst_vars; rfl
  · rfl

/-- A loaded memory has the canonical form. -/
theorem Memory.wf_load (cap : Nat) (fix : α → α) (cells : List (Nat × α)) :
    Memory.wf d (Memory.load d cap fix cells) := by
  induction cells with
  | nil => exact Memory.wf_nil d
  | cons c cells ih =>
    obtain ⟨j, v⟩ := c
    simp only [Memory.load]
    split
    · exact Memory.wf_write _ _ _ ih
    · exact ih

/-- Every cell of a loaded memory lies below the capacity and holds a fitted value. -/
theorem Memory.mem_load (cap : Nat) (fix : α → α) (cells : List (Nat × α)) {c : Nat × α}
    (h : c ∈ Memory.load d cap fix cells) : c.1 < cap ∧ ∃ v, c.2 = fix v := by
  induction cells with
  | nil => simp [Memory.load] at h
  | cons e cells ih =>
    obtain ⟨j, v⟩ := e
    simp only [Memory.load] at h
    split at h
    · rcases Memory.mem_write _ _ _ h with rfl | h
      · exact ⟨‹_›, v, rfl⟩
      · exact ih h
    · exact ih h

end Sys2Proof.Machine
end

