-- ==== Sys2Proof/Laws/State.lean ====
section
/-! SUPPORT. Each named update of the state, field by field: the field it writes and the ones it
leaves. -/

namespace Sys2Proof.Machine

open Sys2Proof

section setStatus

variable (s : State) (v : Status)

@[simp] theorem State.setStatus_cfg : (s.setStatus v).cfg = s.cfg := rfl
@[simp] theorem State.setStatus_status : (s.setStatus v).status = v := rfl
@[simp] theorem State.setStatus_gammaEn : (s.setStatus v).gammaEn = s.gammaEn := rfl
@[simp] theorem State.setStatus_a : (s.setStatus v).a = s.a := rfl
@[simp] theorem State.setStatus_b : (s.setStatus v).b = s.b := rfl
@[simp] theorem State.setStatus_t : (s.setStatus v).t = s.t := rfl
@[simp] theorem State.setStatus_phase : (s.setStatus v).phase = s.phase := rfl
@[simp] theorem State.setStatus_r : (s.setStatus v).r = s.r := rfl
@[simp] theorem State.setStatus_pix : (s.setStatus v).pix = s.pix := rfl
@[simp] theorem State.setStatus_x0 : (s.setStatus v).x0 = s.x0 := rfl
@[simp] theorem State.setStatus_x1 : (s.setStatus v).x1 = s.x1 := rfl
@[simp] theorem State.setStatus_x2 : (s.setStatus v).x2 = s.x2 := rfl
@[simp] theorem State.setStatus_xr : (s.setStatus v).xr = s.xr := rfl
@[simp] theorem State.setStatus_seedLo : (s.setStatus v).seedLo = s.seedLo := rfl
@[simp] theorem State.setStatus_seedHi : (s.setStatus v).seedHi = s.seedHi := rfl
@[simp] theorem State.setStatus_rndF : (s.setStatus v).rndF = s.rndF := rfl
@[simp] theorem State.setStatus_vscale : (s.setStatus v).vscale = s.vscale := rfl
@[simp] theorem State.setStatus_sscale : (s.setStatus v).sscale = s.sscale := rfl
@[simp] theorem State.setStatus_nspr : (s.setStatus v).nspr = s.nspr := rfl
@[simp] theorem State.setStatus_len : (s.setStatus v).len = s.len := rfl
@[simp] theorem State.setStatus_proto : (s.setStatus v).proto = s.proto := rfl
@[simp] theorem State.setStatus_act : (s.setStatus v).act = s.act := rfl
@[simp] theorem State.setStatus_duty : (s.setStatus v).duty = s.duty := rfl
@[simp] theorem State.setStatus_fb : (s.setStatus v).fb = s.fb := rfl
@[simp] theorem State.setStatus_spr : (s.setStatus v).spr = s.spr := rfl
@[simp] theorem State.setStatus_gamma : (s.setStatus v).gamma = s.gamma := rfl
@[simp] theorem State.setStatus_msgbuf : (s.setStatus v).msgbuf = s.msgbuf := rfl
@[simp] theorem State.setStatus_pending : (s.setStatus v).pending = s.pending := rfl
@[simp] theorem State.setStatus_answer : (s.setStatus v).answer = s.answer := rfl

end setStatus

section setR

variable (s : State) (v : Hsv)

@[simp] theorem State.setR_cfg : (s.setR v).cfg = s.cfg := rfl
@[simp] theorem State.setR_status : (s.setR v).status = s.status := rfl
@[simp] theorem State.setR_gammaEn : (s.setR v).gammaEn = s.gammaEn := rfl
@[simp] theorem State.setR_a : (s.setR v).a = s.a := rfl
@[simp] theorem State.setR_b : (s.setR v).b = s.b := rfl
@[simp] theorem State.setR_t : (s.setR v).t = s.t := rfl
@[simp] theorem State.setR_phase : (s.setR v).phase = s.phase := rfl
@[simp] theorem State.setR_r : (s.setR v).r = v := rfl
@[simp] theorem State.setR_pix : (s.setR v).pix = s.pix := rfl
@[simp] theorem State.setR_x0 : (s.setR v).x0 = s.x0 := rfl
@[simp] theorem State.setR_x1 : (s.setR v).x1 = s.x1 := rfl
@[simp] theorem State.setR_x2 : (s.setR v).x2 = s.x2 := rfl
@[simp] theorem State.setR_xr : (s.setR v).xr = s.xr := rfl
@[simp] theorem State.setR_seedLo : (s.setR v).seedLo = s.seedLo := rfl
@[simp] theorem State.setR_seedHi : (s.setR v).seedHi = s.seedHi := rfl
@[simp] theorem State.setR_rndF : (s.setR v).rndF = s.rndF := rfl
@[simp] theorem State.setR_vscale : (s.setR v).vscale = s.vscale := rfl
@[simp] theorem State.setR_sscale : (s.setR v).sscale = s.sscale := rfl
@[simp] theorem State.setR_nspr : (s.setR v).nspr = s.nspr := rfl
@[simp] theorem State.setR_len : (s.setR v).len = s.len := rfl
@[simp] theorem State.setR_proto : (s.setR v).proto = s.proto := rfl
@[simp] theorem State.setR_act : (s.setR v).act = s.act := rfl
@[simp] theorem State.setR_duty : (s.setR v).duty = s.duty := rfl
@[simp] theorem State.setR_fb : (s.setR v).fb = s.fb := rfl
@[simp] theorem State.setR_spr : (s.setR v).spr = s.spr := rfl
@[simp] theorem State.setR_gamma : (s.setR v).gamma = s.gamma := rfl
@[simp] theorem State.setR_msgbuf : (s.setR v).msgbuf = s.msgbuf := rfl
@[simp] theorem State.setR_pending : (s.setR v).pending = s.pending := rfl
@[simp] theorem State.setR_answer : (s.setR v).answer = s.answer := rfl

end setR

section setPix

variable (s : State) (v : Pixel)

@[simp] theorem State.setPix_cfg : (s.setPix v).cfg = s.cfg := rfl
@[simp] theorem State.setPix_status : (s.setPix v).status = s.status := rfl
@[simp] theorem State.setPix_gammaEn : (s.setPix v).gammaEn = s.gammaEn := rfl
@[simp] theorem State.setPix_a : (s.setPix v).a = s.a := rfl
@[simp] theorem State.setPix_b : (s.setPix v).b = s.b := rfl
@[simp] theorem State.setPix_t : (s.setPix v).t = s.t := rfl
@[simp] theorem State.setPix_phase : (s.setPix v).phase = s.phase := rfl
@[simp] theorem State.setPix_r : (s.setPix v).r = s.r := rfl
@[simp] theorem State.setPix_pix : (s.setPix v).pix = v := rfl
@[simp] theorem State.setPix_x0 : (s.setPix v).x0 = s.x0 := rfl
@[simp] theorem State.setPix_x1 : (s.setPix v).x1 = s.x1 := rfl
@[simp] theorem State.setPix_x2 : (s.setPix v).x2 = s.x2 := rfl
@[simp] theorem State.setPix_xr : (s.setPix v).xr = s.xr := rfl
@[simp] theorem State.setPix_seedLo : (s.setPix v).seedLo = s.seedLo := rfl
@[simp] theorem State.setPix_seedHi : (s.setPix v).seedHi = s.seedHi := rfl
@[simp] theorem State.setPix_rndF : (s.setPix v).rndF = s.rndF := rfl
@[simp] theorem State.setPix_vscale : (s.setPix v).vscale = s.vscale := rfl
@[simp] theorem State.setPix_sscale : (s.setPix v).sscale = s.sscale := rfl
@[simp] theorem State.setPix_nspr : (s.setPix v).nspr = s.nspr := rfl
@[simp] theorem State.setPix_len : (s.setPix v).len = s.len := rfl
@[simp] theorem State.setPix_proto : (s.setPix v).proto = s.proto := rfl
@[simp] theorem State.setPix_act : (s.setPix v).act = s.act := rfl
@[simp] theorem State.setPix_duty : (s.setPix v).duty = s.duty := rfl
@[simp] theorem State.setPix_fb : (s.setPix v).fb = s.fb := rfl
@[simp] theorem State.setPix_spr : (s.setPix v).spr = s.spr := rfl
@[simp] theorem State.setPix_gamma : (s.setPix v).gamma = s.gamma := rfl
@[simp] theorem State.setPix_msgbuf : (s.setPix v).msgbuf = s.msgbuf := rfl
@[simp] theorem State.setPix_pending : (s.setPix v).pending = s.pending := rfl
@[simp] theorem State.setPix_answer : (s.setPix v).answer = s.answer := rfl

end setPix

section setXr

variable (s : State) (v : Word)

@[simp] theorem State.setXr_cfg : (s.setXr v).cfg = s.cfg := rfl
@[simp] theorem State.setXr_status : (s.setXr v).status = s.status := rfl
@[simp] theorem State.setXr_gammaEn : (s.setXr v).gammaEn = s.gammaEn := rfl
@[simp] theorem State.setXr_a : (s.setXr v).a = s.a := rfl
@[simp] theorem State.setXr_b : (s.setXr v).b = s.b := rfl
@[simp] theorem State.setXr_t : (s.setXr v).t = s.t := rfl
@[simp] theorem State.setXr_phase : (s.setXr v).phase = s.phase := rfl
@[simp] theorem State.setXr_r : (s.setXr v).r = s.r := rfl
@[simp] theorem State.setXr_pix : (s.setXr v).pix = s.pix := rfl
@[simp] theorem State.setXr_x0 : (s.setXr v).x0 = s.x0 := rfl
@[simp] theorem State.setXr_x1 : (s.setXr v).x1 = s.x1 := rfl
@[simp] theorem State.setXr_x2 : (s.setXr v).x2 = s.x2 := rfl
@[simp] theorem State.setXr_xr : (s.setXr v).xr = v := rfl
@[simp] theorem State.setXr_seedLo : (s.setXr v).seedLo = s.seedLo := rfl
@[simp] theorem State.setXr_seedHi : (s.setXr v).seedHi = s.seedHi := rfl
@[simp] theorem State.setXr_rndF : (s.setXr v).rndF = s.rndF := rfl
@[simp] theorem State.setXr_vscale : (s.setXr v).vscale = s.vscale := rfl
@[simp] theorem State.setXr_sscale : (s.setXr v).sscale = s.sscale := rfl
@[simp] theorem State.setXr_nspr : (s.setXr v).nspr = s.nspr := rfl
@[simp] theorem State.setXr_len : (s.setXr v).len = s.len := rfl
@[simp] theorem State.setXr_proto : (s.setXr v).proto = s.proto := rfl
@[simp] theorem State.setXr_act : (s.setXr v).act = s.act := rfl
@[simp] theorem State.setXr_duty : (s.setXr v).duty = s.duty := rfl
@[simp] theorem State.setXr_fb : (s.setXr v).fb = s.fb := rfl
@[simp] theorem State.setXr_spr : (s.setXr v).spr = s.spr := rfl
@[simp] theorem State.setXr_gamma : (s.setXr v).gamma = s.gamma := rfl
@[simp] theorem State.setXr_msgbuf : (s.setXr v).msgbuf = s.msgbuf := rfl
@[simp] theorem State.setXr_pending : (s.setXr v).pending = s.pending := rfl
@[simp] theorem State.setXr_answer : (s.setXr v).answer = s.answer := rfl

end setXr

section setSeed

variable (s : State) (lo hi : Word)

@[simp] theorem State.setSeed_cfg : (s.setSeed lo hi).cfg = s.cfg := rfl
@[simp] theorem State.setSeed_status : (s.setSeed lo hi).status = s.status := rfl
@[simp] theorem State.setSeed_gammaEn : (s.setSeed lo hi).gammaEn = s.gammaEn := rfl
@[simp] theorem State.setSeed_a : (s.setSeed lo hi).a = s.a := rfl
@[simp] theorem State.setSeed_b : (s.setSeed lo hi).b = s.b := rfl
@[simp] theorem State.setSeed_t : (s.setSeed lo hi).t = s.t := rfl
@[simp] theorem State.setSeed_phase : (s.setSeed lo hi).phase = s.phase := rfl
@[simp] theorem State.setSeed_r : (s.setSeed lo hi).r = s.r := rfl
@[simp] theorem State.setSeed_pix : (s.setSeed lo hi).pix = s.pix := rfl
@[simp] theorem State.setSeed_x0 : (s.setSeed lo hi).x0 = s.x0 := rfl
@[simp] theorem State.setSeed_x1 : (s.setSeed lo hi).x1 = s.x1 := rfl
@[simp] theorem State.setSeed_x2 : (s.setSeed lo hi).x2 = s.x2 := rfl
@[simp] theorem State.setSeed_xr : (s.setSeed lo hi).xr = s.xr := rfl
@[simp] theorem State.setSeed_seedLo : (s.setSeed lo hi).seedLo = lo := rfl
@[simp] theorem State.setSeed_seedHi : (s.setSeed lo hi).seedHi = hi := rfl
@[simp] theorem State.setSeed_rndF : (s.setSeed lo hi).rndF = s.rndF := rfl
@[simp] theorem State.setSeed_vscale : (s.setSeed lo hi).vscale = s.vscale := rfl
@[simp] theorem State.setSeed_sscale : (s.setSeed lo hi).sscale = s.sscale := rfl
@[simp] theorem State.setSeed_nspr : (s.setSeed lo hi).nspr = s.nspr := rfl
@[simp] theorem State.setSeed_len : (s.setSeed lo hi).len = s.len := rfl
@[simp] theorem State.setSeed_proto : (s.setSeed lo hi).proto = s.proto := rfl
@[simp] theorem State.setSeed_act : (s.setSeed lo hi).act = s.act := rfl
@[simp] theorem State.setSeed_duty : (s.setSeed lo hi).duty = s.duty := rfl
@[simp] theorem State.setSeed_fb : (s.setSeed lo hi).fb = s.fb := rfl
@[simp] theorem State.setSeed_spr : (s.setSeed lo hi).spr = s.spr := rfl
@[simp] theorem State.setSeed_gamma : (s.setSeed lo hi).gamma = s.gamma := rfl
@[simp] theorem State.setSeed_msgbuf : (s.setSeed lo hi).msgbuf = s.msgbuf := rfl
@[simp] theorem State.setSeed_pending : (s.setSeed lo hi).pending = s.pending := rfl
@[simp] theorem State.setSeed_answer : (s.setSeed lo hi).answer = s.answer := rfl

end setSeed

section setRndF

variable (s : State) (v : F32)

@[simp] theorem State.setRndF_cfg : (s.setRndF v).cfg = s.cfg := rfl
@[simp] theorem State.setRndF_status : (s.setRndF v).status = s.status := rfl
@[simp] theorem State.setRndF_gammaEn : (s.setRndF v).gammaEn = s.gammaEn := rfl
@[simp] theorem State.setRndF_a : (s.setRndF v).a = s.a := rfl
@[simp] theorem State.setRndF_b : (s.setRndF v).b = s.b := rfl
@[simp] theorem State.setRndF_t : (s.setRndF v).t = s.t := rfl
@[simp] theorem State.setRndF_phase : (s.setRndF v).phase = s.phase := rfl
@[simp] theorem State.setRndF_r : (s.setRndF v).r = s.r := rfl
@[simp] theorem State.setRndF_pix : (s.setRndF v).pix = s.pix := rfl
@[simp] theorem State.setRndF_x0 : (s.setRndF v).x0 = s.x0 := rfl
@[simp] theorem State.setRndF_x1 : (s.setRndF v).x1 = s.x1 := rfl
@[simp] theorem State.setRndF_x2 : (s.setRndF v).x2 = s.x2 := rfl
@[simp] theorem State.setRndF_xr : (s.setRndF v).xr = s.xr := rfl
@[simp] theorem State.setRndF_seedLo : (s.setRndF v).seedLo = s.seedLo := rfl
@[simp] theorem State.setRndF_seedHi : (s.setRndF v).seedHi = s.seedHi := rfl
@[simp] theorem State.setRndF_rndF : (s.setRndF v).rndF = v := rfl
@[simp] theorem State.setRndF_vscale : (s.setRndF v).vscale = s.vscale := rfl
@[simp] theorem State.setRndF_sscale : (s.setRndF v).sscale = s.sscale := rfl
@[simp] theorem State.setRndF_nspr : (s.setRndF v).nspr = s.nspr := rfl
@[simp] theorem State.setRndF_len : (s.setRndF v).len = s.len := rfl
@[simp] theorem State.setRndF_proto : (s.setRndF v).proto = s.proto := rfl
@[simp] theorem State.setRndF_act : (s.setRndF v).act = s.act := rfl
@[simp] theorem State.setRndF_duty : (s.setRndF v).duty = s.duty := rfl
@[simp] theorem State.setRndF_fb : (s.setRndF v).fb = s.fb := rfl
@[simp] theorem State.setRndF_spr : (s.setRndF v).spr = s.spr := rfl
@[simp] theorem State.setRndF_gamma : (s.setRndF v).gamma = s.gamma := rfl
@[simp] theorem State.setRndF_msgbuf : (s.setRndF v).msgbuf = s.msgbuf := rfl
@[simp] theorem State.setRndF_pending : (s.setRndF v).pending = s.pending := rfl
@[simp] theorem State.setRndF_answer : (s.setRndF v).answer = s.answer := rfl

end setRndF

section setNspr

variable (s : State) (v : BitVec 11)

@[simp] theorem State.setNspr_cfg : (s.setNspr v).cfg = s.cfg := rfl
@[simp] theorem State.setNspr_status : (s.setNspr v).status = s.status := rfl
@[simp] theorem State.setNspr_gammaEn : (s.setNspr v).gammaEn = s.gammaEn := rfl
@[simp] theorem State.setNspr_a : (s.setNspr v).a = s.a := rfl
@[simp] theorem State.setNspr_b : (s.setNspr v).b = s.b := rfl
@[simp] theorem State.setNspr_t : (s.setNspr v).t = s.t := rfl
@[simp] theorem State.setNspr_phase : (s.setNspr v).phase = s.phase := rfl
@[simp] theorem State.setNspr_r : (s.setNspr v).r = s.r := rfl
@[simp] theorem State.setNspr_pix : (s.setNspr v).pix = s.pix := rfl
@[simp] theorem State.setNspr_x0 : (s.setNspr v).x0 = s.x0 := rfl
@[simp] theorem State.setNspr_x1 : (s.setNspr v).x1 = s.x1 := rfl
@[simp] theorem State.setNspr_x2 : (s.setNspr v).x2 = s.x2 := rfl
@[simp] theorem State.setNspr_xr : (s.setNspr v).xr = s.xr := rfl
@[simp] theorem State.setNspr_seedLo : (s.setNspr v).seedLo = s.seedLo := rfl
@[simp] theorem State.setNspr_seedHi : (s.setNspr v).seedHi = s.seedHi := rfl
@[simp] theorem State.setNspr_rndF : (s.setNspr v).rndF = s.rndF := rfl
@[simp] theorem State.setNspr_vscale : (s.setNspr v).vscale = s.vscale := rfl
@[simp] theorem State.setNspr_sscale : (s.setNspr v).sscale = s.sscale := rfl
@[simp] theorem State.setNspr_nspr : (s.setNspr v).nspr = v := rfl
@[simp] theorem State.setNspr_len : (s.setNspr v).len = s.len := rfl
@[simp] theorem State.setNspr_proto : (s.setNspr v).proto = s.proto := rfl
@[simp] theorem State.setNspr_act : (s.setNspr v).act = s.act := rfl
@[simp] theorem State.setNspr_duty : (s.setNspr v).duty = s.duty := rfl
@[simp] theorem State.setNspr_fb : (s.setNspr v).fb = s.fb := rfl
@[simp] theorem State.setNspr_spr : (s.setNspr v).spr = s.spr := rfl
@[simp] theorem State.setNspr_gamma : (s.setNspr v).gamma = s.gamma := rfl
@[simp] theorem State.setNspr_msgbuf : (s.setNspr v).msgbuf = s.msgbuf := rfl
@[simp] theorem State.setNspr_pending : (s.setNspr v).pending = s.pending := rfl
@[simp] theorem State.setNspr_answer : (s.setNspr v).answer = s.answer := rfl

end setNspr

section setRenderer

variable (s : State) (l : BitVec 11) (p : Proto)

@[simp] theorem State.setRenderer_cfg : (s.setRenderer l p).cfg = s.cfg := rfl
@[simp] theorem State.setRenderer_status : (s.setRenderer l p).status = s.status := rfl
@[simp] theorem State.setRenderer_gammaEn : (s.setRenderer l p).gammaEn = s.gammaEn := rfl
@[simp] theorem State.setRenderer_a : (s.setRenderer l p).a = s.a := rfl
@[simp] theorem State.setRenderer_b : (s.setRenderer l p).b = s.b := rfl
@[simp] theorem State.setRenderer_t : (s.setRenderer l p).t = s.t := rfl
@[simp] theorem State.setRenderer_phase : (s.setRenderer l p).phase = s.phase := rfl
@[simp] theorem State.setRenderer_r : (s.setRenderer l p).r = s.r := rfl
@[simp] theorem State.setRenderer_pix : (s.setRenderer l p).pix = s.pix := rfl
@[simp] theorem State.setRenderer_x0 : (s.setRenderer l p).x0 = s.x0 := rfl
@[simp] theorem State.setRenderer_x1 : (s.setRenderer l p).x1 = s.x1 := rfl
@[simp] theorem State.setRenderer_x2 : (s.setRenderer l p).x2 = s.x2 := rfl
@[simp] theorem State.setRenderer_xr : (s.setRenderer l p).xr = s.xr := rfl
@[simp] theorem State.setRenderer_seedLo : (s.setRenderer l p).seedLo = s.seedLo := rfl
@[simp] theorem State.setRenderer_seedHi : (s.setRenderer l p).seedHi = s.seedHi := rfl
@[simp] theorem State.setRenderer_rndF : (s.setRenderer l p).rndF = s.rndF := rfl
@[simp] theorem State.setRenderer_vscale : (s.setRenderer l p).vscale = s.vscale := rfl
@[simp] theorem State.setRenderer_sscale : (s.setRenderer l p).sscale = s.sscale := rfl
@[simp] theorem State.setRenderer_nspr : (s.setRenderer l p).nspr = s.nspr := rfl
@[simp] theorem State.setRenderer_len : (s.setRenderer l p).len = l := rfl
@[simp] theorem State.setRenderer_proto : (s.setRenderer l p).proto = p := rfl
@[simp] theorem State.setRenderer_act : (s.setRenderer l p).act = s.act := rfl
@[simp] theorem State.setRenderer_duty : (s.setRenderer l p).duty = s.duty := rfl
@[simp] theorem State.setRenderer_fb : (s.setRenderer l p).fb = s.fb := rfl
@[simp] theorem State.setRenderer_spr : (s.setRenderer l p).spr = s.spr := rfl
@[simp] theorem State.setRenderer_gamma : (s.setRenderer l p).gamma = s.gamma := rfl
@[simp] theorem State.setRenderer_msgbuf : (s.setRenderer l p).msgbuf = s.msgbuf := rfl
@[simp] theorem State.setRenderer_pending : (s.setRenderer l p).pending = s.pending := rfl
@[simp] theorem State.setRenderer_answer : (s.setRenderer l p).answer = s.answer := rfl

end setRenderer

section setAct

variable (s : State) (v : Message)

@[simp] theorem State.setAct_cfg : (s.setAct v).cfg = s.cfg := rfl
@[simp] theorem State.setAct_status : (s.setAct v).status = s.status := rfl
@[simp] theorem State.setAct_gammaEn : (s.setAct v).gammaEn = s.gammaEn := rfl
@[simp] theorem State.setAct_a : (s.setAct v).a = s.a := rfl
@[simp] theorem State.setAct_b : (s.setAct v).b = s.b := rfl
@[simp] theorem State.setAct_t : (s.setAct v).t = s.t := rfl
@[simp] theorem State.setAct_phase : (s.setAct v).phase = s.phase := rfl
@[simp] theorem State.setAct_r : (s.setAct v).r = s.r := rfl
@[simp] theorem State.setAct_pix : (s.setAct v).pix = s.pix := rfl
@[simp] theorem State.setAct_x0 : (s.setAct v).x0 = s.x0 := rfl
@[simp] theorem State.setAct_x1 : (s.setAct v).x1 = s.x1 := rfl
@[simp] theorem State.setAct_x2 : (s.setAct v).x2 = s.x2 := rfl
@[simp] theorem State.setAct_xr : (s.setAct v).xr = s.xr := rfl
@[simp] theorem State.setAct_seedLo : (s.setAct v).seedLo = s.seedLo := rfl
@[simp] theorem State.setAct_seedHi : (s.setAct v).seedHi = s.seedHi := rfl
@[simp] theorem State.setAct_rndF : (s.setAct v).rndF = s.rndF := rfl
@[simp] theorem State.setAct_vscale : (s.setAct v).vscale = s.vscale := rfl
@[simp] theorem State.setAct_sscale : (s.setAct v).sscale = s.sscale := rfl
@[simp] theorem State.setAct_nspr : (s.setAct v).nspr = s.nspr := rfl
@[simp] theorem State.setAct_len : (s.setAct v).len = s.len := rfl
@[simp] theorem State.setAct_proto : (s.setAct v).proto = s.proto := rfl
@[simp] theorem State.setAct_act : (s.setAct v).act = v := rfl
@[simp] theorem State.setAct_duty : (s.setAct v).duty = s.duty := rfl
@[simp] theorem State.setAct_fb : (s.setAct v).fb = s.fb := rfl
@[simp] theorem State.setAct_spr : (s.setAct v).spr = s.spr := rfl
@[simp] theorem State.setAct_gamma : (s.setAct v).gamma = s.gamma := rfl
@[simp] theorem State.setAct_msgbuf : (s.setAct v).msgbuf = s.msgbuf := rfl
@[simp] theorem State.setAct_pending : (s.setAct v).pending = s.pending := rfl
@[simp] theorem State.setAct_answer : (s.setAct v).answer = s.answer := rfl

end setAct

section setDuty

variable (s : State) (v : Pixel)

@[simp] theorem State.setDuty_cfg : (s.setDuty v).cfg = s.cfg := rfl
@[simp] theorem State.setDuty_status : (s.setDuty v).status = s.status := rfl
@[simp] theorem State.setDuty_gammaEn : (s.setDuty v).gammaEn = s.gammaEn := rfl
@[simp] theorem State.setDuty_a : (s.setDuty v).a = s.a := rfl
@[simp] theorem State.setDuty_b : (s.setDuty v).b = s.b := rfl
@[simp] theorem State.setDuty_t : (s.setDuty v).t = s.t := rfl
@[simp] theorem State.setDuty_phase : (s.setDuty v).phase = s.phase := rfl
@[simp] theorem State.setDuty_r : (s.setDuty v).r = s.r := rfl
@[simp] theorem State.setDuty_pix : (s.setDuty v).pix = s.pix := rfl
@[simp] theorem State.setDuty_x0 : (s.setDuty v).x0 = s.x0 := rfl
@[simp] theorem State.setDuty_x1 : (s.setDuty v).x1 = s.x1 := rfl
@[simp] theorem State.setDuty_x2 : (s.setDuty v).x2 = s.x2 := rfl
@[simp] theorem State.setDuty_xr : (s.setDuty v).xr = s.xr := rfl
@[simp] theorem State.setDuty_seedLo : (s.setDuty v).seedLo = s.seedLo := rfl
@[simp] theorem State.setDuty_seedHi : (s.setDuty v).seedHi = s.seedHi := rfl
@[simp] theorem State.setDuty_rndF : (s.setDuty v).rndF = s.rndF := rfl
@[simp] theorem State.setDuty_vscale : (s.setDuty v).vscale = s.vscale := rfl
@[simp] theorem State.setDuty_sscale : (s.setDuty v).sscale = s.sscale := rfl
@[simp] theorem State.setDuty_nspr : (s.setDuty v).nspr = s.nspr := rfl
@[simp] theorem State.setDuty_len : (s.setDuty v).len = s.len := rfl
@[simp] theorem State.setDuty_proto : (s.setDuty v).proto = s.proto := rfl
@[simp] theorem State.setDuty_act : (s.setDuty v).act = s.act := rfl
@[simp] theorem State.setDuty_duty : (s.setDuty v).duty = v := rfl
@[simp] theorem State.setDuty_fb : (s.setDuty v).fb = s.fb := rfl
@[simp] theorem State.setDuty_spr : (s.setDuty v).spr = s.spr := rfl
@[simp] theorem State.setDuty_gamma : (s.setDuty v).gamma = s.gamma := rfl
@[simp] theorem State.setDuty_msgbuf : (s.setDuty v).msgbuf = s.msgbuf := rfl
@[simp] theorem State.setDuty_pending : (s.setDuty v).pending = s.pending := rfl
@[simp] theorem State.setDuty_answer : (s.setDuty v).answer = s.answer := rfl

end setDuty

section setFb

variable (s : State) (v : Memory Elem)

@[simp] theorem State.setFb_cfg : (s.setFb v).cfg = s.cfg := rfl
@[simp] theorem State.setFb_status : (s.setFb v).status = s.status := rfl
@[simp] theorem State.setFb_gammaEn : (s.setFb v).gammaEn = s.gammaEn := rfl
@[simp] theorem State.setFb_a : (s.setFb v).a = s.a := rfl
@[simp] theorem State.setFb_b : (s.setFb v).b = s.b := rfl
@[simp] theorem State.setFb_t : (s.setFb v).t = s.t := rfl
@[simp] theorem State.setFb_phase : (s.setFb v).phase = s.phase := rfl
@[simp] theorem State.setFb_r : (s.setFb v).r = s.r := rfl
@[simp] theorem State.setFb_pix : (s.setFb v).pix = s.pix := rfl
@[simp] theorem State.setFb_x0 : (s.setFb v).x0 = s.x0 := rfl
@[simp] theorem State.setFb_x1 : (s.setFb v).x1 = s.x1 := rfl
@[simp] theorem State.setFb_x2 : (s.setFb v).x2 = s.x2 := rfl
@[simp] theorem State.setFb_xr : (s.setFb v).xr = s.xr := rfl
@[simp] theorem State.setFb_seedLo : (s.setFb v).seedLo = s.seedLo := rfl
@[simp] theorem State.setFb_seedHi : (s.setFb v).seedHi = s.seedHi := rfl
@[simp] theorem State.setFb_rndF : (s.setFb v).rndF = s.rndF := rfl
@[simp] theorem State.setFb_vscale : (s.setFb v).vscale = s.vscale := rfl
@[simp] theorem State.setFb_sscale : (s.setFb v).sscale = s.sscale := rfl
@[simp] theorem State.setFb_nspr : (s.setFb v).nspr = s.nspr := rfl
@[simp] theorem State.setFb_len : (s.setFb v).len = s.len := rfl
@[simp] theorem State.setFb_proto : (s.setFb v).proto = s.proto := rfl
@[simp] theorem State.setFb_act : (s.setFb v).act = s.act := rfl
@[simp] theorem State.setFb_duty : (s.setFb v).duty = s.duty := rfl
@[simp] theorem State.setFb_fb : (s.setFb v).fb = v := rfl
@[simp] theorem State.setFb_spr : (s.setFb v).spr = s.spr := rfl
@[simp] theorem State.setFb_gamma : (s.setFb v).gamma = s.gamma := rfl
@[simp] theorem State.setFb_msgbuf : (s.setFb v).msgbuf = s.msgbuf := rfl
@[simp] theorem State.setFb_pending : (s.setFb v).pending = s.pending := rfl
@[simp] theorem State.setFb_answer : (s.setFb v).answer = s.answer := rfl

end setFb

section setSpr

variable (s : State) (v : Memory Sprite)

@[simp] theorem State.setSpr_cfg : (s.setSpr v).cfg = s.cfg := rfl
@[simp] theorem State.setSpr_status : (s.setSpr v).status = s.status := rfl
@[simp] theorem State.setSpr_gammaEn : (s.setSpr v).gammaEn = s.gammaEn := rfl
@[simp] theorem State.setSpr_a : (s.setSpr v).a = s.a := rfl
@[simp] theorem State.setSpr_b : (s.setSpr v).b = s.b := rfl
@[simp] theorem State.setSpr_t : (s.setSpr v).t = s.t := rfl
@[simp] theorem State.setSpr_phase : (s.setSpr v).phase = s.phase := rfl
@[simp] theorem State.setSpr_r : (s.setSpr v).r = s.r := rfl
@[simp] theorem State.setSpr_pix : (s.setSpr v).pix = s.pix := rfl
@[simp] theorem State.setSpr_x0 : (s.setSpr v).x0 = s.x0 := rfl
@[simp] theorem State.setSpr_x1 : (s.setSpr v).x1 = s.x1 := rfl
@[simp] theorem State.setSpr_x2 : (s.setSpr v).x2 = s.x2 := rfl
@[simp] theorem State.setSpr_xr : (s.setSpr v).xr = s.xr := rfl
@[simp] theorem State.setSpr_seedLo : (s.setSpr v).seedLo = s.seedLo := rfl
@[simp] theorem State.setSpr_seedHi : (s.setSpr v).seedHi = s.seedHi := rfl
@[simp] theorem State.setSpr_rndF : (s.setSpr v).rndF = s.rndF := rfl
@[simp] theorem State.setSpr_vscale : (s.setSpr v).vscale = s.vscale := rfl
@[simp] theorem State.setSpr_sscale : (s.setSpr v).sscale = s.sscale := rfl
@[simp] theorem State.setSpr_nspr : (s.setSpr v).nspr = s.nspr := rfl
@[simp] theorem State.setSpr_len : (s.setSpr v).len = s.len := rfl
@[simp] theorem State.setSpr_proto : (s.setSpr v).proto = s.proto := rfl
@[simp] theorem State.setSpr_act : (s.setSpr v).act = s.act := rfl
@[simp] theorem State.setSpr_duty : (s.setSpr v).duty = s.duty := rfl
@[simp] theorem State.setSpr_fb : (s.setSpr v).fb = s.fb := rfl
@[simp] theorem State.setSpr_spr : (s.setSpr v).spr = v := rfl
@[simp] theorem State.setSpr_gamma : (s.setSpr v).gamma = s.gamma := rfl
@[simp] theorem State.setSpr_msgbuf : (s.setSpr v).msgbuf = s.msgbuf := rfl
@[simp] theorem State.setSpr_pending : (s.setSpr v).pending = s.pending := rfl
@[simp] theorem State.setSpr_answer : (s.setSpr v).answer = s.answer := rfl

end setSpr

section setGamma

variable (s : State) (v : Memory Elem)

@[simp] theorem State.setGamma_cfg : (s.setGamma v).cfg = s.cfg := rfl
@[simp] theorem State.setGamma_status : (s.setGamma v).status = s.status := rfl
@[simp] theorem State.setGamma_gammaEn : (s.setGamma v).gammaEn = s.gammaEn := rfl
@[simp] theorem State.setGamma_a : (s.setGamma v).a = s.a := rfl
@[simp] theorem State.setGamma_b : (s.setGamma v).b = s.b := rfl
@[simp] theorem State.setGamma_t : (s.setGamma v).t = s.t := rfl
@[simp] theorem State.setGamma_phase : (s.setGamma v).phase = s.phase := rfl
@[simp] theorem State.setGamma_r : (s.setGamma v).r = s.r := rfl
@[simp] theorem State.setGamma_pix : (s.setGamma v).pix = s.pix := rfl
@[simp] theorem State.setGamma_x0 : (s.setGamma v).x0 = s.x0 := rfl
@[simp] theorem State.setGamma_x1 : (s.setGamma v).x1 = s.x1 := rfl
@[simp] theorem State.setGamma_x2 : (s.setGamma v).x2 = s.x2 := rfl
@[simp] theorem State.setGamma_xr : (s.setGamma v).xr = s.xr := rfl
@[simp] theorem State.setGamma_seedLo : (s.setGamma v).seedLo = s.seedLo := rfl
@[simp] theorem State.setGamma_seedHi : (s.setGamma v).seedHi = s.seedHi := rfl
@[simp] theorem State.setGamma_rndF : (s.setGamma v).rndF = s.rndF := rfl
@[simp] theorem State.setGamma_vscale : (s.setGamma v).vscale = s.vscale := rfl
@[simp] theorem State.setGamma_sscale : (s.setGamma v).sscale = s.sscale := rfl
@[simp] theorem State.setGamma_nspr : (s.setGamma v).nspr = s.nspr := rfl
@[simp] theorem State.setGamma_len : (s.setGamma v).len = s.len := rfl
@[simp] theorem State.setGamma_proto : (s.setGamma v).proto = s.proto := rfl
@[simp] theorem State.setGamma_act : (s.setGamma v).act = s.act := rfl
@[simp] theorem State.setGamma_duty : (s.setGamma v).duty = s.duty := rfl
@[simp] theorem State.setGamma_fb : (s.setGamma v).fb = s.fb := rfl
@[simp] theorem State.setGamma_spr : (s.setGamma v).spr = s.spr := rfl
@[simp] theorem State.setGamma_gamma : (s.setGamma v).gamma = v := rfl
@[simp] theorem State.setGamma_msgbuf : (s.setGamma v).msgbuf = s.msgbuf := rfl
@[simp] theorem State.setGamma_pending : (s.setGamma v).pending = s.pending := rfl
@[simp] theorem State.setGamma_answer : (s.setGamma v).answer = s.answer := rfl

end setGamma

section setMsgbuf

variable (s : State) (v : Memory Byte)

@[simp] theorem State.setMsgbuf_cfg : (s.setMsgbuf v).cfg = s.cfg := rfl
@[simp] theorem State.setMsgbuf_status : (s.setMsgbuf v).status = s.status := rfl
@[simp] theorem State.setMsgbuf_gammaEn : (s.setMsgbuf v).gammaEn = s.gammaEn := rfl
@[simp] theorem State.setMsgbuf_a : (s.setMsgbuf v).a = s.a := rfl
@[simp] theorem State.setMsgbuf_b : (s.setMsgbuf v).b = s.b := rfl
@[simp] theorem State.setMsgbuf_t : (s.setMsgbuf v).t = s.t := rfl
@[simp] theorem State.setMsgbuf_phase : (s.setMsgbuf v).phase = s.phase := rfl
@[simp] theorem State.setMsgbuf_r : (s.setMsgbuf v).r = s.r := rfl
@[simp] theorem State.setMsgbuf_pix : (s.setMsgbuf v).pix = s.pix := rfl
@[simp] theorem State.setMsgbuf_x0 : (s.setMsgbuf v).x0 = s.x0 := rfl
@[simp] theorem State.setMsgbuf_x1 : (s.setMsgbuf v).x1 = s.x1 := rfl
@[simp] theorem State.setMsgbuf_x2 : (s.setMsgbuf v).x2 = s.x2 := rfl
@[simp] theorem State.setMsgbuf_xr : (s.setMsgbuf v).xr = s.xr := rfl
@[simp] theorem State.setMsgbuf_seedLo : (s.setMsgbuf v).seedLo = s.seedLo := rfl
@[simp] theorem State.setMsgbuf_seedHi : (s.setMsgbuf v).seedHi = s.seedHi := rfl
@[simp] theorem State.setMsgbuf_rndF : (s.setMsgbuf v).rndF = s.rndF := rfl
@[simp] theorem State.setMsgbuf_vscale : (s.setMsgbuf v).vscale = s.vscale := rfl
@[simp] theorem State.setMsgbuf_sscale : (s.setMsgbuf v).sscale = s.sscale := rfl
@[simp] theorem State.setMsgbuf_nspr : (s.setMsgbuf v).nspr = s.nspr := rfl
@[simp] theorem State.setMsgbuf_len : (s.setMsgbuf v).len = s.len := rfl
@[simp] theorem State.setMsgbuf_proto : (s.setMsgbuf v).proto = s.proto := rfl
@[simp] theorem State.setMsgbuf_act : (s.setMsgbuf v).act = s.act := rfl
@[simp] theorem State.setMsgbuf_duty : (s.setMsgbuf v).duty = s.duty := rfl
@[simp] theorem State.setMsgbuf_fb : (s.setMsgbuf v).fb = s.fb := rfl
@[simp] theorem State.setMsgbuf_spr : (s.setMsgbuf v).spr = s.spr := rfl
@[simp] theorem State.setMsgbuf_gamma : (s.setMsgbuf v).gamma = s.gamma := rfl
@[simp] theorem State.setMsgbuf_msgbuf : (s.setMsgbuf v).msgbuf = v := rfl
@[simp] theorem State.setMsgbuf_pending : (s.setMsgbuf v).pending = s.pending := rfl
@[simp] theorem State.setMsgbuf_answer : (s.setMsgbuf v).answer = s.answer := rfl

end setMsgbuf

section setPending

variable (s : State) (v : List Event)

@[simp] theorem State.setPending_cfg : (s.setPending v).cfg = s.cfg := rfl
@[simp] theorem State.setPending_status : (s.setPending v).status = s.status := rfl
@[simp] theorem State.setPending_gammaEn : (s.setPending v).gammaEn = s.gammaEn := rfl
@[simp] theorem State.setPending_a : (s.setPending v).a = s.a := rfl
@[simp] theorem State.setPending_b : (s.setPending v).b = s.b := rfl
@[simp] theorem State.setPending_t : (s.setPending v).t = s.t := rfl
@[simp] theorem State.setPending_phase : (s.setPending v).phase = s.phase := rfl
@[simp] theorem State.setPending_r : (s.setPending v).r = s.r := rfl
@[simp] theorem State.setPending_pix : (s.setPending v).pix = s.pix := rfl
@[simp] theorem State.setPending_x0 : (s.setPending v).x0 = s.x0 := rfl
@[simp] theorem State.setPending_x1 : (s.setPending v).x1 = s.x1 := rfl
@[simp] theorem State.setPending_x2 : (s.setPending v).x2 = s.x2 := rfl
@[simp] theorem State.setPending_xr : (s.setPending v).xr = s.xr := rfl
@[simp] theorem State.setPending_seedLo : (s.setPending v).seedLo = s.seedLo := rfl
@[simp] theorem State.setPending_seedHi : (s.setPending v).seedHi = s.seedHi := rfl
@[simp] theorem State.setPending_rndF : (s.setPending v).rndF = s.rndF := rfl
@[simp] theorem State.setPending_vscale : (s.setPending v).vscale = s.vscale := rfl
@[simp] theorem State.setPending_sscale : (s.setPending v).sscale = s.sscale := rfl
@[simp] theorem State.setPending_nspr : (s.setPending v).nspr = s.nspr := rfl
@[simp] theorem State.setPending_len : (s.setPending v).len = s.len := rfl
@[simp] theorem State.setPending_proto : (s.setPending v).proto = s.proto := rfl
@[simp] theorem State.setPending_act : (s.setPending v).act = s.act := rfl
@[simp] theorem State.setPending_duty : (s.setPending v).duty = s.duty := rfl
@[simp] theorem State.setPending_fb : (s.setPending v).fb = s.fb := rfl
@[simp] theorem State.setPending_spr : (s.setPending v).spr = s.spr := rfl
@[simp] theorem State.setPending_gamma : (s.setPending v).gamma = s.gamma := rfl
@[simp] theorem State.setPending_msgbuf : (s.setPending v).msgbuf = s.msgbuf := rfl
@[simp] theorem State.setPending_pending : (s.setPending v).pending = v := rfl
@[simp] theorem State.setPending_answer : (s.setPending v).answer = s.answer := rfl

end setPending

section setAnswer

variable (s : State) (v : Option Word)

@[simp] theorem State.setAnswer_cfg : (s.setAnswer v).cfg = s.cfg := rfl
@[simp] theorem State.setAnswer_status : (s.setAnswer v).status = s.status := rfl
@[simp] theorem State.setAnswer_gammaEn : (s.setAnswer v).gammaEn = s.gammaEn := rfl
@[simp] theorem State.setAnswer_a : (s.setAnswer v).a = s.a := rfl
@[simp] theorem State.setAnswer_b : (s.setAnswer v).b = s.b := rfl
@[simp] theorem State.setAnswer_t : (s.setAnswer v).t = s.t := rfl
@[simp] theorem State.setAnswer_phase : (s.setAnswer v).phase = s.phase := rfl
@[simp] theorem State.setAnswer_r : (s.setAnswer v).r = s.r := rfl
@[simp] theorem State.setAnswer_pix : (s.setAnswer v).pix = s.pix := rfl
@[simp] theorem State.setAnswer_x0 : (s.setAnswer v).x0 = s.x0 := rfl
@[simp] theorem State.setAnswer_x1 : (s.setAnswer v).x1 = s.x1 := rfl
@[simp] theorem State.setAnswer_x2 : (s.setAnswer v).x2 = s.x2 := rfl
@[simp] theorem State.setAnswer_xr : (s.setAnswer v).xr = s.xr := rfl
@[simp] theorem State.setAnswer_seedLo : (s.setAnswer v).seedLo = s.seedLo := rfl
@[simp] theorem State.setAnswer_seedHi : (s.setAnswer v).seedHi = s.seedHi := rfl
@[simp] theorem State.setAnswer_rndF : (s.setAnswer v).rndF = s.rndF := rfl
@[simp] theorem State.setAnswer_vscale : (s.setAnswer v).vscale = s.vscale := rfl
@[simp] theorem State.setAnswer_sscale : (s.setAnswer v).sscale = s.sscale := rfl
@[simp] theorem State.setAnswer_nspr : (s.setAnswer v).nspr = s.nspr := rfl
@[simp] theorem State.setAnswer_len : (s.setAnswer v).len = s.len := rfl
@[simp] theorem State.setAnswer_proto : (s.setAnswer v).proto = s.proto := rfl
@[simp] theorem State.setAnswer_act : (s.setAnswer v).act = s.act := rfl
@[simp] theorem State.setAnswer_duty : (s.setAnswer v).duty = s.duty := rfl
@[simp] theorem State.setAnswer_fb : (s.setAnswer v).fb = s.fb := rfl
@[simp] theorem State.setAnswer_spr : (s.setAnswer v).spr = s.spr := rfl
@[simp] theorem State.setAnswer_gamma : (s.setAnswer v).gamma = s.gamma := rfl
@[simp] theorem State.setAnswer_msgbuf : (s.setAnswer v).msgbuf = s.msgbuf := rfl
@[simp] theorem State.setAnswer_pending : (s.setAnswer v).pending = s.pending := rfl
@[simp] theorem State.setAnswer_answer : (s.setAnswer v).answer = v := rfl

end setAnswer

end Sys2Proof.Machine
end

