-- ==== Sys2Proof/Laws/Float.lean ====
section
/-! SUPPORT. What rounding gives: the magnitude patterns are in the order of their values, rounding
picks a nearest one, keeps exact values and keeps the order. -/

namespace Sys2Proof.Machine

open Sys2Proof

/-- The value of the pattern with exponent place `k` and significand `t`. -/
theorem scaledMag_place (k t : Nat) (hk : k = 0 ∨ 2 ^ 23 ≤ t) (ht : t ≤ 2 ^ 24) :
    scaledMag (k * 2 ^ 23 + t) = t * 2 ^ k := by
  unfold scaledMag
  by_cases hsub : t < 2 ^ 23
  · have hk0 : k = 0 := by omega
    subst hk0
    have h : (0 * 2 ^ 23 + t) / 2 ^ 23 = 0 := by omega
    rw [if_pos h]
    omega
  · by_cases htop : t = 2 ^ 24
    · subst htop
      have h1 : (k * 2 ^ 23 + 2 ^ 24) / 2 ^ 23 = k + 2 := by omega
      have h2 : (k * 2 ^ 23 + 2 ^ 24) % 2 ^ 23 = 0 := by omega
      rw [h1, h2, if_neg (by omega)]
      have h3 : k + 2 - 1 = k + 1 := by omega
      rw [h3, pow_succ]
      ring
    · have h1 : (k * 2 ^ 23 + t) / 2 ^ 23 = k + 1 := by omega
      have h2 : (k * 2 ^ 23 + t) % 2 ^ 23 = t - 2 ^ 23 := by omega
      rw [h1, h2, if_neg (by omega)]
      have h3 : k + 1 - 1 = k := by omega
      have h4 : 2 ^ 23 + (t - 2 ^ 23) = t := by omega
      rw [h3, h4]

/-- The next pattern has a greater value. -/
theorem scaledMag_lt_succ (m : Nat) : scaledMag m < scaledMag (m + 1) := by
  by_cases hsub : m < 2 ^ 24
  · have h1 := scaledMag_place 0 m (.inl rfl) (by omega)
    have h2 := scaledMag_place 0 (m + 1) (.inl rfl) (by omega)
    simp only [zero_mul, zero_add, pow_zero, mul_one] at h1 h2
    omega
  · obtain ⟨k, t, hm, hlo, hhi⟩ : ∃ k t, m = k * 2 ^ 23 + t ∧ 2 ^ 23 ≤ t ∧ t < 2 ^ 24 :=
      ⟨m / 2 ^ 23 - 1, m - (m / 2 ^ 23 - 1) * 2 ^ 23, by omega, by omega, by omega⟩
    have h1 := scaledMag_place k t (.inr hlo) (by omega)
    have h2 := scaledMag_place k (t + 1) (.inr (by omega)) (by omega)
    rw [hm, h1, Nat.add_assoc, h2]
    exact Nat.mul_lt_mul_of_pos_right (Nat.lt_succ_self t) (by positivity)

/-- The patterns are in the order of their values. -/
theorem scaledMag_strictMono : StrictMono scaledMag := strictMono_nat_of_lt_succ scaledMag_lt_succ

/-- The place where a rounding falls: `n / d` lies between the values of two neighbouring patterns,
and the one half a place or less away is taken, the even one where it is half a place. -/
theorem roundUnbounded_spec (n d : Nat) (hd : 0 < d) :
    ∃ k m, (k = 0 ∨ 2 ^ 23 ≤ m) ∧ m < 2 ^ 24 ∧
      m * (d * 2 ^ k) ≤ n ∧ n < (m + 1) * (d * 2 ^ k) ∧
      roundUnbounded n d = k * 2 ^ 23 + m +
        if 2 * n > (2 * m + 1) * (d * 2 ^ k) ∨ (2 * n = (2 * m + 1) * (d * 2 ^ k) ∧ m % 2 = 1)
        then 1 else 0 := by
  have hD : 0 < d * 2 ^ (Nat.log2 (n / d) - 23) := by positivity
  refine ⟨Nat.log2 (n / d) - 23, n / (d * 2 ^ (Nat.log2 (n / d) - 23)), ?_, ?_, ?_, ?_, ?_⟩
  · by_cases hq : n / d < 2 ^ 24
    · left
      by_cases h0 : n / d = 0
      · rw [h0]; simp
      · have := (Nat.log2_lt h0).2 hq
        omega
    · right
      have h0 : n / d ≠ 0 := by omega
      have h23 : 24 ≤ Nat.log2 (n / d) := (Nat.le_log2 h0).2 (by omega)
      have hle : 2 ^ Nat.log2 (n / d) ≤ n / d := Nat.log2_self_le h0
      rw [← Nat.div_div_eq_div_mul, Nat.le_div_iff_mul_le (by positivity), ← pow_add]
      rwa [show 23 + (Nat.log2 (n / d) - 23) = Nat.log2 (n / d) by omega]
  · rw [← Nat.div_div_eq_div_mul, Nat.div_lt_iff_lt_mul (by positivity), ← pow_add]
    calc n / d < 2 ^ (Nat.log2 (n / d) + 1) := Nat.lt_log2_self
      _ ≤ 2 ^ (24 + (Nat.log2 (n / d) - 23)) := Nat.pow_le_pow_right (by omega) (by omega)
  · exact Nat.div_mul_le_self _ _
  · rw [Nat.add_one_mul]
    exact Nat.lt_div_mul_add hD
  · unfold roundUnbounded
    simp only
    generalize hDd : d * 2 ^ (Nat.log2 (n / d) - 23) = D at *
    have hdm := Nat.div_add_mod n D
    have e1 : (2 * (n / D) + 1) * D = 2 * (D * (n / D)) + D := by ring
    rw [e1]
    congr 1
    refine if_congr ?_ rfl rfl
    constructor
    · rintro (h | ⟨h, h'⟩)
      · left; omega
      · right; exact ⟨by omega, h'⟩
    · rintro (h | ⟨h, h'⟩)
      · left; omega
      · right; exact ⟨by omega, h'⟩

/-- Rounding picks a nearest magnitude. -/
theorem roundUnbounded_nearest (n d M : Nat) (hd : 0 < d) :
    |(scaledMag (roundUnbounded n d) * d : Int) - n| ≤ |(scaledMag M * d : Int) - n| := by
  obtain ⟨k, m, hk, hm, hlo, hhi, hr⟩ := roundUnbounded_spec n d hd
  have hA : scaledMag (k * 2 ^ 23 + m) * d = m * (d * 2 ^ k) := by
    rw [scaledMag_place k m hk (by omega)]; ring
  have hB : scaledMag (k * 2 ^ 23 + m + 1) * d = (m + 1) * (d * 2 ^ k) := by
    rw [Nat.add_assoc, scaledMag_place k (m + 1) (by omega) (by omega)]; ring
  have hM : scaledMag M * d ≤ m * (d * 2 ^ k) ∨ (m + 1) * (d * 2 ^ k) ≤ scaledMag M * d := by
    rcases Nat.lt_or_ge (k * 2 ^ 23 + m) M with h | h
    · right
      rw [← hB]
      exact Nat.mul_le_mul_right d (scaledMag_strictMono.monotone h)
    · left
      rw [← hA]
      exact Nat.mul_le_mul_right d (scaledMag_strictMono.monotone h)
  generalize hD : d * 2 ^ k = D at *
  generalize hS : scaledMag M * d = S at *
  have e1 : (m + 1) * D = m * D + D := by ring
  have e2 : (2 * m + 1) * D = 2 * (m * D) + D := by ring
  rw [e1] at hhi hB hM
  rw [e2] at hr
  have hS' : (scaledMag M * d : Int) = S := by exact_mod_cast hS
  have key : ∀ R : Nat, (R = m * D ∧ 2 * n ≤ 2 * (m * D) + D) ∨
      (R = m * D + D ∧ 2 * (m * D) + D ≤ 2 * n) → |(R : Int) - n| ≤ |(S : Int) - n| := by
    intro R hR
    generalize m * D = P at *
    rcases hR with ⟨rfl, h⟩ | ⟨rfl, h⟩ <;> rcases hM with hM | hM <;>
      · rcases abs_cases (((_ : Nat) : Int) - n) with ⟨h1, _⟩ | ⟨h1, _⟩ <;>
          rcases abs_cases ((S : Int) - n) with ⟨h2, _⟩ | ⟨h2, _⟩ <;>
          rw [h1, h2] <;> push_cast at * <;> omega
  have hS'' : ((scaledMag M : Int) * d) = ((scaledMag M * d : Nat) : Int) := by push_cast; rfl
  have hR' : ((scaledMag (roundUnbounded n d) : Int) * d) =
      ((scaledMag (roundUnbounded n d) * d : Nat) : Int) := by push_cast; rfl
  rw [hS'', hR', hS]
  split at hr
  · rw [hr, hB]
    exact key _ (.inr ⟨rfl, by omega⟩)
  · rw [hr, Nat.add_zero, hA]
    exact key _ (.inl ⟨rfl, by omega⟩)

/-- Rounding an exact value gives its pattern. -/
theorem roundUnbounded_exact (M d : Nat) (hd : 0 < d) :
    roundUnbounded (scaledMag M * d) d = M := by
  have h := roundUnbounded_nearest (scaledMag M * d) d M hd
  have h0 : ((scaledMag M : Int) * d) - ((scaledMag M * d : Nat) : Int) = 0 := by
    push_cast; ring
  rw [h0, abs_zero] at h
  have h1 := abs_nonpos_iff.1 h
  have h2 : scaledMag (roundUnbounded (scaledMag M * d) d) * d = scaledMag M * d := by
    have h3 := sub_eq_zero.1 h1
    exact_mod_cast h3
  exact scaledMag_strictMono.injective (Nat.eq_of_mul_eq_mul_right hd h2)

/-- Rounding keeps the order. -/
theorem roundUnbounded_mono (n n' d : Nat) (hd : 0 < d) (h : n ≤ n') :
    roundUnbounded n d ≤ roundUnbounded n' d := by
  by_contra hlt
  have hlt := Nat.lt_of_not_le hlt
  have hne : n ≠ n' := fun e => by subst e; exact lt_irrefl _ hlt
  have hs : scaledMag (roundUnbounded n' d) * d < scaledMag (roundUnbounded n d) * d :=
    Nat.mul_lt_mul_of_pos_right (scaledMag_strictMono hlt) hd
  have h1 := roundUnbounded_nearest n d (roundUnbounded n' d) hd
  have h2 := roundUnbounded_nearest n' d (roundUnbounded n d) hd
  rw [← Nat.cast_mul, ← Nat.cast_mul] at h1 h2
  generalize scaledMag (roundUnbounded n d) * d = A at *
  generalize scaledMag (roundUnbounded n' d) * d = B at *
  rcases abs_cases ((A : Int) - n) with ⟨e1, _⟩ | ⟨e1, _⟩ <;>
    rcases abs_cases ((B : Int) - n) with ⟨e2, _⟩ | ⟨e2, _⟩ <;>
    rcases abs_cases ((A : Int) - n') with ⟨e3, _⟩ | ⟨e3, _⟩ <;>
    rcases abs_cases ((B : Int) - n') with ⟨e4, _⟩ | ⟨e4, _⟩ <;>
    rw [e1, e2] at h1 <;> rw [e3, e4] at h2 <;> omega

/-- A value up to that of pattern `M` rounds to a pattern up to `M`. -/
theorem roundMag_le (n d M : Nat) (hd : 0 < d) (h : n ≤ scaledMag M * d) : roundMag n d ≤ M := by
  have h1 := roundUnbounded_mono n _ d hd h
  rw [roundUnbounded_exact M d hd] at h1
  exact le_trans (min_le_left _ _) h1

/-- A value from that of a finite pattern `M` rounds to a pattern from `M`. -/
theorem le_roundMag (n d M : Nat) (hd : 0 < d) (hM : M ≤ infBits) (h : scaledMag M * d ≤ n) :
    M ≤ roundMag n d := by
  have h1 := roundUnbounded_mono _ n d hd h
  rw [roundUnbounded_exact M d hd] at h1
  exact le_min h1 hM

/-- Rounding the value of a finite pattern gives the pattern. -/
theorem roundMag_exact (M d : Nat) (hd : 0 < d) (hM : M ≤ infBits) :
    roundMag (scaledMag M * d) d = M := by
  unfold roundMag
  rw [roundUnbounded_exact M d hd, min_eq_left hM]

/-- Rounding keeps the order. -/
theorem roundMag_mono (n n' d : Nat) (hd : 0 < d) (h : n ≤ n') : roundMag n d ≤ roundMag n' d :=
  min_le_min_right _ (roundUnbounded_mono n n' d hd h)

end Sys2Proof.Machine
end

