-- ==== Sys2Proof/Laws/Unit.lean ====
section
/-! SUPPORT. The float primitives on the floats in `[0.0, 1.0]`, on which alone the commands use
them (00_scope.md R21). -/

namespace Sys2Proof.Machine

open Sys2Proof

theorem roundMag_le_infBits (n d : Nat) : roundMag n d ≤ infBits := min_le_right _ _

theorem roundMag_zero (d : Nat) (hd : 0 < d) : roundMag 0 d = 0 := by
  have h := roundMag_exact 0 d hd (by decide)
  have h0 : scaledMag 0 = 0 := by decide
  rwa [h0, zero_mul] at h

/-- The value of `1.0` in units of `2^-149`. -/
theorem scaledMag_one : scaledMag 0x3F800000 = 2 ^ 149 := by decide +kernel

theorem scaledMag_le_one {m : Nat} (h : m ≤ 0x3F800000) : scaledMag m ≤ 2 ^ 149 :=
  scaledMag_one ▸ scaledMag_strictMono.monotone h

theorem mkFloat_false_toNat {m : Nat} (h : m ≤ infBits) : (mkFloat false m).toNat = m := by
  unfold mkFloat infBits at *
  simp only [Bool.false_eq_true, if_false, BitVec.toNat_ofNat]
  omega

theorem mkFloat_true_toNat {m : Nat} (h : m ≤ infBits) : (mkFloat true m).toNat = m + 2 ^ 31 := by
  unfold mkFloat infBits at *
  simp only [if_true, BitVec.toNat_ofNat]
  omega

/-- A positive pattern that is at most an infinity's is its own magnitude. -/
theorem magBits_of_le {a : F32} (h : a.toNat ≤ infBits) : magBits a = a.toNat := by
  unfold magBits infBits at *
  omega

theorem msb_of_le {a : F32} (h : a.toNat ≤ infBits) : a.msb = false := by
  unfold infBits at h
  rw [BitVec.msb_eq_decide]
  simp only [decide_eq_false_iff_not]
  omega

theorem isNaN_of_le {a : F32} (h : a.toNat ≤ infBits) : isNaN a = false := by
  unfold isNaN
  rw [magBits_of_le h]
  simpa using h

theorem inUnit.le_inf {a : F32} (h : inUnit a) : a.toNat ≤ infBits := by
  unfold inUnit infBits at *
  omega

theorem inUnit.lt_inf {a : F32} (h : inUnit a) : a.toNat < infBits := by
  unfold inUnit infBits at *
  omega

/-- A positive finite pattern stands for its magnitude. -/
theorem view_of_lt {a : F32} (h : a.toNat < infBits) : view a = .fin false (scaledMag a.toNat) := by
  unfold view
  rw [isNaN_of_le h.le, magBits_of_le h.le, msb_of_le h.le]
  simp [h.ne]

/-- Positive patterns that are no NaN compare as numbers. -/
theorem floatKey_of_le {a : F32} (h : a.toNat ≤ infBits) : floatKey a = a.toNat := by
  unfold floatKey signedMag
  rw [msb_of_le h, magBits_of_le h]
  simp

theorem fle_of_le {a b : F32} (ha : a.toNat ≤ infBits) (hb : b.toNat ≤ infBits) :
    fle a b = decide (a.toNat ≤ b.toNat) := by
  unfold fle
  rw [isNaN_of_le ha, isNaN_of_le hb, floatKey_of_le ha, floatKey_of_le hb]
  simp

theorem flt_of_le {a b : F32} (ha : a.toNat ≤ infBits) (hb : b.toNat ≤ infBits) :
    flt a b = decide (a.toNat < b.toNat) := by
  unfold flt
  rw [isNaN_of_le ha, isNaN_of_le hb, floatKey_of_le ha, floatKey_of_le hb]
  simp

theorem feq_of_le {a b : F32} (ha : a.toNat ≤ infBits) (hb : b.toNat ≤ infBits) :
    feq a b = decide (a = b) := by
  unfold feq
  rw [isNaN_of_le ha, isNaN_of_le hb, floatKey_of_le ha, floatKey_of_le hb]
  simp [BitVec.toNat_eq]

theorem inUnit_zero : inUnit 0#32 := by decide

theorem inUnit_one : inUnit fOne := by decide

/-- The clamp leaves a float in range as it is (42_color.md R152). -/
theorem clamp01_of_inUnit {a : F32} (h : inUnit a) : clamp01 a = a := by
  unfold clamp01
  rw [isNaN_of_le h.le_inf, fle_of_le h.le_inf inUnit_zero.le_inf,
    fle_of_le inUnit_one.le_inf h.le_inf]
  simp only [Bool.false_eq_true, if_false, decide_eq_true_eq]
  unfold inUnit fOne at *
  split
  · apply BitVec.eq_of_toNat_eq; simp at *; omega
  · split
    · apply BitVec.eq_of_toNat_eq; simp at *; omega
    · rfl

/-- Whatever the pattern, the clamp gives a float in range (00_scope.md R19). -/
theorem clamp01_inUnit (a : F32) : inUnit (clamp01 a) := by
  unfold clamp01
  split
  · exact inUnit_zero
  · rename_i hn
    split
    · exact inUnit_zero
    · rename_i h0
      split
      · exact inUnit_one
      · rename_i h1
        have h0' : fle 0#32 0#32 = true := by decide
        unfold fle at h0 h1
        simp only [Bool.not_eq_true] at hn
        rw [hn, isNaN_of_le inUnit_zero.le_inf, floatKey_of_le inUnit_zero.le_inf] at h0
        rw [hn, isNaN_of_le inUnit_one.le_inf, floatKey_of_le inUnit_one.le_inf] at h1
        simp only [Bool.not_false, Bool.true_and, decide_eq_true_eq, not_le] at h0 h1
        unfold floatKey signedMag magBits at h0 h1
        rw [BitVec.msb_eq_decide] at h0 h1
        unfold inUnit
        simp only [fOne, BitVec.toNat_ofNat] at h0 h1
        have := a.isLt
        split at h0 <;> simp only [decide_eq_true_eq] at * <;> omega

theorem addFinite_pos (ma mb : Nat) :
    addFinite false ma false mb = mkFloat false (roundMag (ma + mb) 1) := by
  unfold addFinite signedMag
  simp only [Bool.false_eq_true, if_false, Bool.and_self]
  split
  · have h : ma + mb = 0 := by omega
    rw [h, roundMag_zero 1 (by omega)]
  · have h : ¬ ((ma : Int) + mb < 0) := by omega
    have h' : ((ma : Int) + mb).natAbs = ma + mb := by omega
    simp [h, h']

theorem addFinite_sub {ma mb : Nat} (h : mb ≤ ma) :
    addFinite false ma true mb = mkFloat false (roundMag (ma - mb) 1) := by
  unfold addFinite signedMag
  simp only [Bool.false_eq_true, if_false, if_true, Bool.false_and]
  split
  · have h : ma - mb = 0 := by omega
    rw [h, roundMag_zero 1 (by omega)]
  · have h : ¬ ((ma : Int) + -mb < 0) := by omega
    have h' : ((ma : Int) + -mb).natAbs = ma - mb := by omega
    simp [h, h']

theorem addFinite_sub_neg {ma mb : Nat} (h : ma < mb) :
    addFinite false ma true mb = mkFloat true (roundMag (mb - ma) 1) := by
  unfold addFinite signedMag
  simp only [Bool.false_eq_true, if_false, if_true, Bool.false_and]
  split
  · omega
  · have h : ((ma : Int) + -mb < 0) := by omega
    have h' : ((ma : Int) + -mb).natAbs = mb - ma := by omega
    simp [h, h']

theorem view_fneg {b : F32} (h : b.toNat < infBits) :
    view (fneg b) = .fin true (scaledMag b.toNat) := by
  have hx : (fneg b).toNat = b.toNat + 2 ^ 31 := by
    unfold fneg
    rw [BitVec.toNat_xor]
    simp only [BitVec.toNat_ofNat]
    have h31 : b.toNat < 2 ^ 31 := by unfold infBits at h; omega
    have hor := Nat.two_pow_add_eq_or_of_lt h31 1
    have h2 : b.toNat ^^^ 2147483648 = 2147483648 ||| b.toNat := by
      apply Nat.eq_of_testBit_eq
      intro i
      rw [Nat.testBit_xor, Nat.testBit_or]
      by_cases hi : i = 31
      · subst hi
        have : b.toNat.testBit 31 = false := Nat.testBit_lt_two_pow h31
        rw [this]; simp
      · have : (2147483648 : Nat).testBit i = false := by
          rw [show (2147483648 : Nat) = 2 ^ 31 by norm_num, Nat.testBit_two_pow]
          simp [Ne.symm hi]
        rw [this]; simp
    rw [show 2147483648 % 2 ^ 32 = 2147483648 by norm_num, h2]
    rw [show 2 ^ 31 * 1 = 2147483648 by norm_num] at hor
    omega
  have hm : magBits (fneg b) = b.toNat := by
    unfold magBits infBits at *
    rw [hx]; omega
  have hs : (fneg b).msb = true := by
    rw [BitVec.msb_eq_decide, hx]
    simp only [decide_eq_true_eq]
    omega
  unfold view isNaN
  rw [hm, hs]
  have h1 : ¬ infBits < b.toNat := by omega
  simp [h1, h.ne]

/-- The sum of two positive finite floats. -/
theorem fadd_pos {a b : F32} (ha : a.toNat < infBits) (hb : b.toNat < infBits) :
    fadd a b = mkFloat false (roundMag (scaledMag a.toNat + scaledMag b.toNat) 1) := by
  unfold fadd
  rw [view_of_lt ha, view_of_lt hb]
  exact addFinite_pos _ _

/-- The difference of two positive finite floats, the smaller from the larger. -/
theorem fsub_pos {a b : F32} (ha : a.toNat < infBits) (hb : b.toNat < infBits)
    (h : b.toNat ≤ a.toNat) :
    fsub a b = mkFloat false (roundMag (scaledMag a.toNat - scaledMag b.toNat) 1) := by
  unfold fsub fadd
  rw [view_of_lt ha, view_fneg hb]
  exact addFinite_sub (scaledMag_strictMono.monotone h)

/-- The difference of two positive finite floats, the larger from the smaller. -/
theorem fsub_neg {a b : F32} (ha : a.toNat < infBits) (hb : b.toNat < infBits)
    (h : a.toNat < b.toNat) :
    fsub a b = mkFloat true (roundMag (scaledMag b.toNat - scaledMag a.toNat) 1) := by
  unfold fsub fadd
  rw [view_of_lt ha, view_fneg hb]
  exact addFinite_sub_neg (scaledMag_strictMono h)

/-- The product of two positive finite floats. -/
theorem fmul_pos {a b : F32} (ha : a.toNat < infBits) (hb : b.toNat < infBits) :
    fmul a b = mkFloat false (roundMag (scaledMag a.toNat * scaledMag b.toNat) (2 ^ 149)) := by
  unfold fmul
  rw [view_of_lt ha, view_of_lt hb]
  rfl

/-- The quotient of two positive finite floats, the divisor not zero. -/
theorem fdiv_pos {a b : F32} (ha : a.toNat < infBits) (hb : b.toNat < infBits)
    (h : 0 < b.toNat) :
    fdiv a b = mkFloat false (roundMag (scaledMag a.toNat * 2 ^ 149) (scaledMag b.toNat)) := by
  have h0 : scaledMag b.toNat ≠ 0 := by
    have := scaledMag_strictMono h
    omega
  unfold fdiv
  rw [view_of_lt ha, view_of_lt hb]
  simp [h0]

/-- A product of floats in range is no greater than either factor (42_color.md R153). -/
theorem fmul_unit_le {a b : F32} (ha : inUnit a) (hb : inUnit b) :
    (fmul a b).toNat ≤ a.toNat := by
  rw [fmul_pos ha.lt_inf hb.lt_inf, mkFloat_false_toNat (roundMag_le_infBits _ _)]
  exact roundMag_le _ _ _ (by positivity) (Nat.mul_le_mul_left _ (scaledMag_le_one hb))

theorem fmul_inUnit {a b : F32} (ha : inUnit a) (hb : inUnit b) : inUnit (fmul a b) :=
  le_trans (fmul_unit_le ha hb) ha

/-- A difference of floats in range, the smaller from the larger, is no greater than the larger. -/
theorem fsub_unit_le {a b : F32} (ha : inUnit a) (hb : inUnit b) (h : b.toNat ≤ a.toNat) :
    (fsub a b).toNat ≤ a.toNat := by
  rw [fsub_pos ha.lt_inf hb.lt_inf h, mkFloat_false_toNat (roundMag_le_infBits _ _)]
  exact roundMag_le _ _ _ (by omega) (by omega)

/-- A sum of floats in range is positive and no less than either term. -/
theorem fadd_unit_ge {a b : F32} (ha : inUnit a) (hb : inUnit b) :
    a.toNat ≤ (fadd a b).toNat ∧ (fadd a b).toNat ≤ infBits := by
  rw [fadd_pos ha.lt_inf hb.lt_inf, mkFloat_false_toNat (roundMag_le_infBits _ _)]
  exact ⟨le_roundMag _ _ _ (by omega) ha.le_inf (by omega), roundMag_le_infBits _ _⟩

/-- The larger of two positive floats. -/
theorem fmax_of_le {a b : F32} (ha : a.toNat ≤ infBits) (hb : b.toNat ≤ infBits) :
    (fmax a b).toNat = max a.toNat b.toNat := by
  unfold fmax
  rw [isNaN_of_le ha, isNaN_of_le hb, fle_of_le hb ha]
  simp only [Bool.or_self, Bool.false_eq_true, if_false, decide_eq_true_eq]
  split <;> omega

/-- The smaller of two positive floats. -/
theorem fmin_of_le {a b : F32} (ha : a.toNat ≤ infBits) (hb : b.toNat ≤ infBits) :
    (fmin a b).toNat = min a.toNat b.toNat := by
  unfold fmin
  rw [isNaN_of_le ha, isNaN_of_le hb, fle_of_le ha hb]
  simp only [Bool.or_self, Bool.false_eq_true, if_false, decide_eq_true_eq]
  split <;> omega

/-- `fmax` gives a positive float rather than the negative of a finite one. -/
theorem fmax_neg {m : Nat} {b : F32} (hm : m < infBits) (hb : b.toNat ≤ infBits) (h0 : 0 < m) :
    fmax (mkFloat true m) b = b := by
  have ht := mkFloat_true_toNat hm.le
  have hmag : magBits (mkFloat true m) = m := by
    unfold magBits infBits at *
    rw [ht]; omega
  have hs : (mkFloat true m).msb = true := by
    rw [BitVec.msb_eq_decide, ht]
    simp only [decide_eq_true_eq]
    omega
  have hn : isNaN (mkFloat true m) = false := by
    unfold isNaN; rw [hmag]; simpa using hm.le
  unfold fmax fle
  rw [hn, isNaN_of_le hb, floatKey_of_le hb]
  unfold floatKey signedMag
  rw [hs, hmag]
  have h1 : ¬ ((b.toNat : Int) ≤ -(m : Int)) := by omega
  simp [h1]

end Sys2Proof.Machine
end

