-- ==== Sys2Proof/Laws/Ops.lean ====
section
/-! SUPPORT. One lemma for each shared operation, saying all it can do. -/

namespace Sys2Proof.Machine

open Sys2Proof

/-! ### Widths -/

theorem chMax_lt (c : Config) : c.chMax + 1 = 2 ^ c.bits := by
  unfold Config.chMax
  have : 0 < 2 ^ c.bits := by positivity
  omega

theorem chMax_le (c : Config) : c.chMax ≤ 65535 := by
  unfold Config.chMax Config.bits
  cases c.cw <;> decide

theorem elemCW_toNat (c : Config) (v : Elem) : (elemCW c v).toNat ≤ c.chMax := by
  have h1 := chMax_lt c
  have h2 : v.toNat % 2 ^ c.bits < 2 ^ c.bits := Nat.mod_lt _ (by positivity)
  have h3 := chMax_le c
  unfold elemCW
  rw [BitVec.toNat_ofNat]
  have := Nat.mod_le (v.toNat % 2 ^ c.bits) (2 ^ 16)
  omega

theorem elemCW_of_le {c : Config} {v : Elem} (h : v.toNat ≤ c.chMax) : elemCW c v = v := by
  have h1 := chMax_lt c
  unfold elemCW
  rw [Nat.mod_eq_of_lt (by omega)]
  simp

theorem truncCW_toNat (c : Config) (w : Word) : (truncCW c w).toNat = w.toNat % 2 ^ c.bits := by
  have h1 := chMax_lt c
  have h2 : w.toNat % 2 ^ c.bits < 2 ^ c.bits := Nat.mod_lt _ (by positivity)
  have h3 := chMax_le c
  unfold truncCW
  rw [BitVec.toNat_ofNat]
  exact Nat.mod_eq_of_lt (by omega)

theorem truncCW_le (c : Config) (w : Word) : (truncCW c w).toNat ≤ c.chMax := by
  have h1 := chMax_lt c
  have h2 : w.toNat % 2 ^ c.bits < 2 ^ c.bits := Nat.mod_lt _ (by positivity)
  rw [truncCW_toNat]
  omega

/-! ### Loops -/

/-- What every pass of a loop keeps, the loop keeps. -/
theorem forBelow_induction {P : State → Prop} {n : Nat} {body : Nat → State → State} {s : State}
    (h0 : P s) (h : ∀ i t, i < n → P t → P (body i t)) : P (forBelow n body s) := by
  induction n with
  | zero => exact h0
  | succ n ih => exact h n _ (Nat.lt_succ_self n) (ih fun i t hi => h i t (Nat.lt_succ_of_lt hi))

/-- What holds before pass `i` and is carried on by it holds after the loop, with the count of
passes made. -/
theorem forBelow_count {P : Nat → State → Prop} {n : Nat} {body : Nat → State → State} {s : State}
    (h0 : P 0 s) (h : ∀ i t, i < n → P i t → P (i + 1) (body i t)) : P n (forBelow n body s) := by
  induction n with
  | zero => exact h0
  | succ n ih => exact h n _ (Nat.lt_succ_self n) (ih fun i t hi => h i t (Nat.lt_succ_of_lt hi))

/-- Loops whose passes agree agree. -/
theorem forBelow_congr {n : Nat} {body body' : Nat → State → State} {s : State}
    (h : ∀ i t, i < n → body i t = body' i t) : forBelow n body s = forBelow n body' s := by
  induction n with
  | zero => rfl
  | succ n ih =>
    simp only [forBelow]
    rw [ih fun i t hi => h i t (Nat.lt_succ_of_lt hi), h n _ (Nat.lt_succ_self n)]

/-! ### The memories of the state -/

/-- A write of a frame-buffer element leaves all of the state but `FB`. -/
theorem writeFb_frame (s : State) (j : Nat) (v : Elem) :
    writeFb s j v = s.setFb (writeFb s j v).fb := by
  unfold writeFb
  split <;> rfl

/-- A write of a frame-buffer element, element by element. -/
theorem readFb_writeFb (s : State) (j : Nat) (v : Elem) (i : Nat)
    (h : Memory.wf emptyElem s.fb) :
    readFb (writeFb s j v) i =
      if i = j ∧ j < s.cfg.fbCap then elemCW s.cfg v else readFb s i := by
  unfold writeFb readFb
  by_cases hj : j < s.cfg.fbCap
  · simp only [hj, if_true, State.setFb_cfg, State.setFb_fb, Memory.read_write _ _ _ _ h, and_true]
    by_cases hi : i = j
    · subst hi; simp [hj]
    · simp [hi]
  · simp [hj]

theorem writeFb_wf (s : State) (j : Nat) (v : Elem) (h : Memory.wf emptyElem s.fb) :
    Memory.wf emptyElem (writeFb s j v).fb := by
  unfold writeFb
  split
  · exact Memory.wf_write _ _ _ h
  · exact h

theorem writeFb_elemsOk (s : State) (j : Nat) (v : Elem) (h : elemsOk s.cfg s.cfg.fbCap s.fb) :
    elemsOk s.cfg s.cfg.fbCap (writeFb s j v).fb := by
  unfold writeFb
  split
  · refine ⟨Memory.wf_write _ _ _ h.1, fun x hx => ?_⟩
    rcases Memory.mem_write _ _ _ hx with rfl | hx
    · exact ⟨‹_›, elemCW_toNat _ _⟩
    · exact h.2 x hx
  · exact h

/-- A write of what an element holds changes nothing. -/
theorem writeFb_same (s : State) (j : Nat) (v : Elem) (h : Memory.wf emptyElem s.fb)
    (hv : elemCW s.cfg v = readFb s j) : writeFb s j v = s := by
  unfold writeFb
  split
  · rename_i hj
    have hr : readFb s j = Memory.read emptyElem s.fb j := by unfold readFb; rw [if_pos hj]
    rw [hv, hr, Memory.write_read _ _ h]
    rfl
  · rfl

/-- An element of the gamma table fits its width. -/
theorem readGamma_le (s : State) (j : Nat) (h : elemsOk s.cfg (s.cfg.chMax + 1) s.gamma) :
    (readGamma s j).toNat ≤ s.cfg.chMax := by
  unfold readGamma
  split
  · exact Memory.read_induction (d := emptyElem) (P := fun v => v.toNat ≤ s.cfg.chMax) _
      (by simp [emptyElem])
      (fun c hc => (h.2 c hc).2) _
  · exact Nat.zero_le _

/-- An element of the frame buffer fits its width. -/
theorem readFb_le (s : State) (j : Nat) (h : elemsOk s.cfg s.cfg.fbCap s.fb) :
    (readFb s j).toNat ≤ s.cfg.chMax := by
  unfold readFb
  split
  · exact Memory.read_induction (d := emptyElem) (P := fun v => v.toNat ≤ s.cfg.chMax) _
      (by simp [emptyElem])
      (fun c hc => (h.2 c hc).2) _
  · exact Nat.zero_le _

/-- A write of a sprite leaves all of the state but `SPR`. -/
theorem writeSprite_frame (s : State) (k : Nat) (v : Sprite) :
    writeSprite s k v = s.setSpr (writeSprite s k v).spr := by
  unfold writeSprite
  split <;> rfl

/-- A write of a sprite, sprite by sprite. -/
theorem readSprite_writeSprite (s : State) (k : Nat) (v : Sprite) (i : Nat)
    (h : Memory.wf emptySprite s.spr) :
    readSprite (writeSprite s k v) i =
      if i = k ∧ k < Config.nMax then v else readSprite s i := by
  unfold writeSprite readSprite
  by_cases hk : k < Config.nMax
  · simp only [hk, if_true, State.setSpr_spr, Memory.read_write _ _ _ _ h, and_true]
    by_cases hi : i = k
    · subst hi; simp [hk]
    · simp [hi]
  · simp [hk]

theorem writeSprite_ok (s : State) (k : Nat) (v : Sprite)
    (h : Memory.wf emptySprite s.spr ∧ ∀ x ∈ s.spr, x.1 < Config.nMax) :
    Memory.wf emptySprite (writeSprite s k v).spr ∧
      ∀ x ∈ (writeSprite s k v).spr, x.1 < Config.nMax := by
  unfold writeSprite
  split
  · refine ⟨Memory.wf_write _ _ _ h.1, fun x hx => ?_⟩
    rcases Memory.mem_write _ _ _ hx with rfl | hx
    · assumption
    · exact h.2 x hx
  · exact h

/-- A write of a gamma entry leaves all of the state but `GAMMA`. -/
theorem writeGamma_frame (s : State) (j : Nat) (v : Elem) :
    writeGamma s j v = s.setGamma (writeGamma s j v).gamma := by
  unfold writeGamma
  split <;> rfl

/-- A write of a gamma entry, entry by entry. -/
theorem readGamma_writeGamma (s : State) (j : Nat) (v : Elem) (i : Nat)
    (h : Memory.wf emptyElem s.gamma) :
    readGamma (writeGamma s j v) i =
      if i = j ∧ j ≤ s.cfg.chMax then elemCW s.cfg v else readGamma s i := by
  unfold writeGamma readGamma
  by_cases hj : j ≤ s.cfg.chMax
  · simp only [hj, if_true, State.setGamma_cfg, State.setGamma_gamma, Memory.read_write _ _ _ _ h,
      and_true]
    by_cases hi : i = j
    · subst hi; simp [hj]
    · simp [hi]
  · simp [hj]

/-- A write of a message byte leaves all of the state but `MSGBUF`. -/
theorem writeMsg_frame (s : State) (i : Nat) (v : Byte) :
    writeMsg s i v = s.setMsgbuf (writeMsg s i v).msgbuf := by
  unfold writeMsg
  split <;> rfl

/-- A write of a message byte, byte by byte. -/
theorem readMsg_writeMsg (s : State) (j : Nat) (v : Byte) (i : Nat)
    (h : Memory.wf emptyByte s.msgbuf) :
    readMsg (writeMsg s j v) i = if i = j ∧ j < Config.msgLen then v else readMsg s i := by
  unfold writeMsg readMsg
  by_cases hj : j < Config.msgLen
  · simp only [hj, if_true, State.setMsgbuf_msgbuf, Memory.read_write _ _ _ _ h, and_true]
    by_cases hi : i = j
    · subst hi; simp [hj]
    · simp [hi]
  · simp [hj]

/-- After a clear every element of the frame buffer is 0. -/
theorem readFb_clearFb (s : State) (j : Nat) : readFb (clearFb s) j = 0#16 := by
  unfold readFb clearFb
  split
  · rfl
  · rfl

/-- The reset state that is given what it holds in `GAMMA` is itself. -/
theorem resetFor_gamma (c : Config) (fb : Memory Elem) (spr : Memory Sprite) (gamma : Memory Elem) :
    State.resetFor c fb spr (c.gammaInit.getD gamma) = State.resetFor c fb spr gamma := by
  unfold State.resetFor
  cases c.gammaInit <;> rfl

/-- The reset event leaves the reset state of the implementation, and the events still to come. -/
theorem resetEvent_frame (c : ResetContents) (s : State) :
    resetEvent c s = (State.resetFor s.cfg (resetEvent c s).fb (resetEvent c s).spr
      (resetEvent c s).gamma).setPending s.pending := by
  change _ = (State.resetFor s.cfg _ _ (s.cfg.gammaInit.getD _)).setPending _
  rw [resetFor_gamma]
  rfl

/-- `GAMMA_INIT`, where given, is a table in canonical form. -/
theorem gammaInit_elemsOk {c : Config} (h : c.WF) {g : Memory Elem}
    (hg : c.gammaInit = some g) : elemsOk c (c.chMax + 1) g := by
  obtain ⟨hs, hx⟩ := h.gammaInit g hg
  exact ⟨⟨hs, fun x m => (hx x m).1⟩, fun x m => ⟨Nat.lt_succ_of_le (hx x m).2.1, (hx x m).2.2⟩⟩

/-- With `GAMMA_INIT` given, every reset leaves it in `GAMMA`, whatever the event says. -/
theorem resetEvent_gammaInit (c : ResetContents) (s : State) {g : Memory Elem}
    (hg : s.cfg.gammaInit = some g) : (resetEvent c s).gamma = g := by
  change s.cfg.gammaInit.getD _ = g
  rw [hg]
  rfl

/-- With no `GAMMA_INIT` given, a reset leaves in `GAMMA` what the event says. -/
theorem resetEvent_gamma (c : ResetContents) (s : State) (hg : s.cfg.gammaInit = none) :
    (resetEvent c s).gamma =
      Memory.load emptyElem (s.cfg.chMax + 1) (elemCW s.cfg) c.gamma := by
  change s.cfg.gammaInit.getD _ = _
  rw [hg]
  rfl

/-- After the reset event every memory has the canonical form. -/
theorem resetEvent_memories_wf (c : ResetContents) (s : State) (h : s.cfg.WF) :
    Memory.wf emptyElem (resetEvent c s).fb ∧ Memory.wf emptySprite (resetEvent c s).spr ∧
      Memory.wf emptyElem (resetEvent c s).gamma ∧ Memory.wf emptyByte (resetEvent c s).msgbuf := by
  refine ⟨Memory.wf_load _ _ _, Memory.wf_load _ _ _, ?_, Memory.wf_nil _⟩
  cases hg : s.cfg.gammaInit with
  | some g =>
    rw [resetEvent_gammaInit c s hg]
    exact (gammaInit_elemsOk h hg).1
  | none =>
    rw [resetEvent_gamma c s hg]
    exact Memory.wf_load _ _ _

/-- The reset memories have the canonical form. -/
theorem reset_memories_wf :
    Memory.wf emptyElem State.reset.fb ∧ Memory.wf emptySprite State.reset.spr ∧
      Memory.wf emptyElem State.reset.gamma ∧ Memory.wf emptyByte State.reset.msgbuf :=
  ⟨Memory.wf_nil _, Memory.wf_nil _, Memory.wf_nil _, Memory.wf_nil _⟩

/-! ### The generator -/

theorem lcgStep_lt (n : Nat) : lcgStep n < 2 ^ 31 := Nat.mod_lt _ (by decide)

theorem seedOf_setSeed (s : State) (lo hi : Word) :
    seedOf (s.setSeed lo hi) = hi.toNat * 2 ^ 32 + lo.toNat := rfl

/-- One step of the generator makes `SEED` the next seed, whose high half is 0
(41_lcg.md R132). -/
theorem genNext_seed (s : State) :
    seedOf (genNext s) = lcgStep (seedOf s) ∧ (genNext s).seedHi = 0#32 := by
  have h := lcgStep_lt (seedOf s)
  unfold genNext
  generalize lcgStep (seedOf s) = n at *
  have h0 : n / 2 ^ 32 = 0 := Nat.div_eq_of_lt (by omega)
  rw [seedOf_setSeed, State.setSeed_seedHi, h0]
  refine ⟨?_, rfl⟩
  simp only [BitVec.toNat_ofNat]
  omega

/-- A draw is a float in range. -/
theorem drawValue_inUnit (s : State) : inUnit (drawValue s) := by
  unfold drawValue drawOfSeed
  exact clamp01_inUnit _

/-! ### The pixel write -/

/-- The illegal command word sets `STATUS.ILL` and leaves the rest. -/
theorem illegalCommand_frame (s : State) :
    illegalCommand s = s.setStatus { s.status with ill := true } := rfl

theorem State.sameButPixels_refl (s : State) : s.sameButPixels s := rfl

theorem State.sameButPixels_trans {s t u : State} (h : s.sameButPixels t) (h' : t.sameButPixels u) :
    s.sameButPixels u := by
  unfold State.sameButPixels at *
  rw [h', h]
  rfl

theorem State.sameButBank_refl (s : State) : s.sameButBank s := rfl

theorem State.sameButBank_trans {s t u : State} (h : s.sameButBank t) (h' : t.sameButBank u) :
    s.sameButBank u := by
  unfold State.sameButBank at *
  rw [h', h]
  rfl

theorem writeFb_sameButPixels (s : State) (j : Nat) (v : Elem) :
    s.sameButPixels (writeFb s j v) := by
  unfold State.sameButPixels writeFb
  split <;> rfl

theorem setSeed_sameButBank (s : State) (lo hi : Word) : s.sameButBank (s.setSeed lo hi) := rfl

theorem genNext_sameButBank (s : State) : s.sameButBank (genNext s) :=
  setSeed_sameButBank _ _ _

theorem writeSprite_sameButBank (s : State) (k : Nat) (v : Sprite) :
    s.sameButBank (writeSprite s k v) := by
  unfold State.sameButBank writeSprite
  split <;> rfl

/-- A pixel write leaves all of the state but `FB` and `DUTY_*`. -/
theorem putPixel_sameButPixels (i : Nat) (p : Pixel) (s : State) :
    s.sameButPixels (putPixel i p s) := by
  unfold putPixel
  split
  · rfl
  · split
    · unfold putClocked
      exact State.sameButPixels_trans (State.sameButPixels_trans (State.sameButPixels_trans
        (writeFb_sameButPixels _ _ _) (writeFb_sameButPixels _ _ _)) (writeFb_sameButPixels _ _ _))
        (writeFb_sameButPixels _ _ _)
    · unfold putSingle
      exact State.sameButPixels_trans (State.sameButPixels_trans
        (writeFb_sameButPixels _ _ _) (writeFb_sameButPixels _ _ _)) (writeFb_sameButPixels _ _ _)
    · rfl

/-- A loop of pixel writes leaves all of the state but `FB` and `DUTY_*`. -/
theorem forBelow_sameButPixels {n : Nat} {body : Nat → State → State} {s : State}
    (h : ∀ i (t : State), t.sameButPixels (body i t)) : s.sameButPixels (forBelow n body s) :=
  forBelow_induction (P := s.sameButPixels) rfl
    fun i t _ ht => State.sameButPixels_trans ht (h i t)

/-- The update of a sprite leaves all of the state but `SPR` and `SEED`. -/
theorem updateSprite_sameButBank (k : Nat) (s : State) : s.sameButBank (updateSprite k s) := by
  unfold updateSprite
  simp only
  split
  · exact writeSprite_sameButBank _ _ _
  · split
    · exact writeSprite_sameButBank _ _ _
    · exact State.sameButBank_trans (State.sameButBank_trans (genNext_sameButBank _)
        (genNext_sameButBank _)) (writeSprite_sameButBank _ _ _)

/-- The construction of a sprite leaves all of the state but `SPR` and `SEED`. -/
theorem initSprite_sameButBank (k : Nat) (s : State) : s.sameButBank (initSprite k s) := by
  unfold initSprite
  exact State.sameButBank_trans (State.sameButBank_trans (State.sameButBank_trans
    (genNext_sameButBank _) (genNext_sameButBank _)) (genNext_sameButBank _))
    (writeSprite_sameButBank _ _ _)

/-- A loop over sprites leaves all of the state but `SPR` and `SEED`. -/
theorem forBelow_sameButBank {n : Nat} {body : Nat → State → State} {s : State}
    (h : ∀ i (t : State), t.sameButBank (body i t)) : s.sameButBank (forBelow n body s) :=
  forBelow_induction (P := s.sameButBank) rfl
    fun i t _ ht => State.sameButBank_trans ht (h i t)

end Sys2Proof.Machine
end

