-- ==== Sys2Proof/Laws/Color.lean ====
section
/-! SUPPORT. The ranges of the colour model and of the sprites (42_color.md R140, R141, R153,
43_sprite.md R161). -/

namespace Sys2Proof.Machine

open Sys2Proof

/-- A channel is at most `CH_MAX`. -/
theorem toChannel_le (c : Config) (x : F32) : toChannel c x ≤ c.chMax := min_le_right _ _

theorem ofNat_toChannel (c : Config) (x : F32) :
    (BitVec.ofNat 16 (toChannel c x)).toNat = toChannel c x := by
  have h := toChannel_le c x
  have h' := chMax_le c
  rw [BitVec.toNat_ofNat]
  exact Nat.mod_eq_of_lt (by omega)

/-- The converter gives a pixel. -/
theorem hsvToRgb_fits (c : Config) (x : Hsv) : (hsvToRgb c x).Fits c := by
  refine ⟨?_, ?_, ?_⟩ <;>
    · simp only [hsvToRgb, ofNat_toChannel]
      exact toChannel_le _ _

/-- The gamma stage keeps a channel in range. -/
theorem gammaStage_le (s : State) (x : Elem) (h : elemsOk s.cfg (s.cfg.chMax + 1) s.gamma)
    (hx : x.toNat ≤ s.cfg.chMax) : (gammaStage s x).toNat ≤ s.cfg.chMax := by
  unfold gammaStage
  split
  · exact readGamma_le _ _ h
  · exact hx

/-- The converter with the gamma stage gives a pixel. -/
theorem conv_fits (s : State) (x : Hsv) (h : elemsOk s.cfg (s.cfg.chMax + 1) s.gamma) :
    (conv s x).Fits s.cfg :=
  ⟨gammaStage_le _ _ h (hsvToRgb_fits _ _).1, gammaStage_le _ _ h (hsvToRgb_fits _ _).2.1,
    gammaStage_le _ _ h (hsvToRgb_fits _ _).2.2⟩

/-- One interpolated channel is in range. -/
theorem lerp1_inUnit {a b tc : F32} (hb : inUnit b) : inUnit (lerp1 a b tc) := by
  unfold lerp1
  split
  · exact hb
  · exact clamp01_inUnit _

/-- An interpolated colour is in range. -/
theorem hsvInterp_inUnit (c1 : Hsv) {c2 : Hsv} (t : F32) (h : c2.InUnit) :
    (hsvInterp c1 c2 t).InUnit :=
  ⟨lerp1_inUnit h.1, lerp1_inUnit h.2.1, lerp1_inUnit h.2.2⟩

/-- A scaled value of a draw is in range. -/
theorem scaledValue_inUnit (s : State) {d : F32} (hd : inUnit d) (hv : inUnit s.vscale) :
    inUnit (scaledValue s d) := fmul_inUnit hd hv

/-- A scaled step of a draw is in range and at least `STEP_MIN`. -/
theorem scaledStep_fits (s : State) {d : F32} (hd : inUnit d) (hs : inUnit s.sscale) :
    inUnit (scaledStep s d) ∧ Config.stepMin.toNat ≤ (scaledStep s d).toNat := by
  have hm := fmul_inUnit hd hs
  have hmin : inUnit Config.stepMin := by decide
  have h := fmax_of_le hm.le_inf hmin.le_inf
  unfold scaledStep inUnit
  rw [h]
  exact ⟨max_le hm hmin, le_max_right _ _⟩

/-- A new sprite has its fields in range. -/
theorem newSprite_fits (s : State) (hv : inUnit s.vscale) (hs : inUnit s.sscale) :
    (newSprite s).Fits := by
  dsimp only [newSprite, Sprite.Fits]
  have h1 := scaledValue_inUnit s (drawValue_inUnit s) hv
  have h2 := scaledValue_inUnit s (drawValue_inUnit (genNext s)) hv
  have h3 := scaledStep_fits s (drawValue_inUnit (genNext (genNext s))) hs
  exact ⟨h1, h2, h3⟩

/-- A re-targeted sprite has its fields in range. -/
theorem retarget_fits (s : State) (x : Sprite) (hx : x.Fits) (hv : inUnit s.vscale)
    (hs : inUnit s.sscale) : (retarget s x).Fits := by
  obtain ⟨h1, -⟩ := hx
  have h2 := scaledValue_inUnit s (drawValue_inUnit s) hv
  have h3 := scaledStep_fits s (drawValue_inUnit (genNext s)) hs
  revert h2 h3
  unfold retarget
  generalize scaledValue s (drawValue s) = g
  generalize scaledStep s (drawValue (genNext s)) = d
  intro h2 h3
  exact ⟨h1, h2, h3⟩

end Sys2Proof.Machine
end

