-- ==== Sys2Proof/Laws/PerInstr.lean ====
section
/-! SUPPORT. A family of statements with one lemma per command: its word carries its opcode in bits
7:0, its operands above, and nothing else (30_encoding.md R91 to R96). -/

namespace Sys2Proof.Laws

open Sys2Proof

/-- Any operand bits above any opcode: the two fields read back. -/
theorem fields_append (x : BitVec 24) (op : BitVec 8) :
    (x ++ op).extractLsb' 0 8 = op ∧ (x ++ op).extractLsb' 8 24 = x := by
  constructor
  · exact BitVec.extractLsb'_append_eq_right
  · exact BitVec.extractLsb'_append_eq_left

/-- The word of a command reads back as its opcode and its operand bits. -/
def WordFields.Statement (i : Instr) : Prop :=
  opcodeField (encode i) = opcodeOf i ∧ (encode i).extractLsb' 8 24 = operandBits i

theorem WordFields.allOff : WordFields.Statement .allOff := fields_append _ _

theorem WordFields.fillGradient : WordFields.Statement .fillGradient := fields_append _ _

theorem WordFields.fillGradientDual : WordFields.Statement .fillGradientDual := fields_append _ _

theorem WordFields.fillTriangle : WordFields.Statement .fillTriangle := fields_append _ _

theorem WordFields.fillRandom : WordFields.Statement .fillRandom := fields_append _ _

theorem WordFields.setPixel (idx : BitVec 16) : WordFields.Statement (.setPixel idx) :=
  fields_append _ _

theorem WordFields.hsv2rgb : WordFields.Statement .hsv2rgb := fields_append _ _

theorem WordFields.hsvInterp : WordFields.Statement .hsvInterp := fields_append _ _

theorem WordFields.scale : WordFields.Statement .scale := fields_append _ _

theorem WordFields.mapRange : WordFields.Statement .mapRange := fields_append _ _

theorem WordFields.lcgNext : WordFields.Statement .lcgNext := fields_append _ _

theorem WordFields.lcgNextF : WordFields.Statement .lcgNextF := fields_append _ _

theorem WordFields.sprInit (n : BitVec 11) : WordFields.Statement (.sprInit n) :=
  fields_append _ _

theorem WordFields.sprTick : WordFields.Statement .sprTick := fields_append _ _

theorem WordFields.rendInit (len : BitVec 11) (proto : BitVec 2) :
    WordFields.Statement (.rendInit len proto) :=
  fields_append _ _

theorem WordFields.msgLoad : WordFields.Statement .msgLoad := fields_append _ _

theorem WordFields.frameTick : WordFields.Statement .frameTick := fields_append _ _

end Sys2Proof.Laws
end

