-- ==== Sys2Proof/Laws/Pixels.lean ====
section
/-! SUPPORT. The pixel write, element by element, and the operand forms. -/

namespace Sys2Proof.Machine

open Sys2Proof

/-! ### The operand forms -/

/-- A count is clamped, so it never passes its capacity. -/
theorem countOperand_le (n : BitVec 11) (cap : Nat) : countOperand n cap ≤ cap := min_le_right _ _

/-- The protocol tags that are no protocol are those with the value 3. -/
theorem protoOperand_spec (p : BitVec 2) :
    (p = 3#2 ∧ protoOperand p = none) ∨
      ∃ q, protoOperand p = some q ∧ protoNumber q = p.toNat := by
  revert p
  decide

/-- A pattern id names the pattern of that number, and none from 5 on. -/
theorem patternOperand_spec (n : Nat) (p : Pattern) :
    patternOperand n = some p ↔ patternNumber p = n := by
  unfold patternOperand
  constructor
  · intro h
    split_ifs at h <;> cases h <;> simp_all [patternNumber]
  · rintro rfl
    cases p <;> rfl

theorem patternOperand_none (n : Nat) : patternOperand n = none ↔ 4 < n := by
  unfold patternOperand
  constructor
  · intro h
    split_ifs at h
    omega
  · intro h
    rw [if_neg, if_neg, if_neg, if_neg, if_neg] <;> omega

/-! ### The pixel write -/

/-- The elements of a strip pixel lie in the frame buffer (44_render.md R187). -/
theorem pixel_lt_fbCap {c : Config} {len i : Nat} (hl : len ≤ Config.pixMax) (hi : i < len) :
    4 + 4 * i + 3 < c.fbCap := by
  unfold Config.fbCap
  unfold Config.pixMax at *
  omega

/-- A pixel write keeps the canonical form of the frame buffer. -/
theorem putPixel_wf (i : Nat) (p : Pixel) (s : State) (h : Memory.wf emptyElem s.fb) :
    Memory.wf emptyElem (putPixel i p s).fb := by
  unfold putPixel
  split
  · exact h
  · split
    · unfold putClocked
      exact writeFb_wf _ _ _ (writeFb_wf _ _ _ (writeFb_wf _ _ _ (writeFb_wf _ _ _ h)))
    · unfold putSingle
      exact writeFb_wf _ _ _ (writeFb_wf _ _ _ (writeFb_wf _ _ _ h))
    · exact h

@[simp] theorem writeFb_cfg (s : State) (j : Nat) (v : Elem) : (writeFb s j v).cfg = s.cfg := by
  rw [writeFb_frame]; rfl

@[simp] theorem writeFb_duty (s : State) (j : Nat) (v : Elem) : (writeFb s j v).duty = s.duty := by
  rw [writeFb_frame]; rfl

/-- A pixel write, element by element: the pixel's own elements hold its encoding, every other
element stays. -/
theorem readFb_putPixel (i : Nat) (p : Pixel) (s : State) (j : Nat)
    (h : Memory.wf emptyElem s.fb) (hc : s.cfg.bright.toNat ≤ s.cfg.chMax) (hp : p.Fits s.cfg)
    (hl : s.len.toNat ≤ Config.pixMax) :
    readFb (putPixel i p s) j =
      if i < s.len.toNat then (storedElement s.cfg s.proto i p j).getD (readFb s j)
      else readFb s j := by
  unfold putPixel
  by_cases hi : s.len.toNat ≤ i
  · rw [if_pos hi, if_neg (Nat.not_lt.mpr hi)]
  · have hb := pixel_lt_fbCap (c := s.cfg) hl (Nat.lt_of_not_le hi)
    rw [if_neg hi, if_pos (Nat.lt_of_not_le hi)]
    have h1 (j : Nat) (v : Elem) := writeFb_wf s j v h
    cases hq : s.proto with
    | clocked =>
      have h2 (j j' : Nat) (v v' : Elem) := writeFb_wf (writeFb s j v) j' v' (h1 j v)
      have h3 (j j' j'' : Nat) (v v' v'' : Elem) :=
        writeFb_wf (writeFb (writeFb s j v) j' v') j'' v'' (h2 j j' v v')
      simp only [putClocked, storedElement]
      rw [readFb_writeFb _ _ _ _ (h3 _ _ _ _ _ _), readFb_writeFb _ _ _ _ (h2 _ _ _ _),
        readFb_writeFb _ _ _ _ (h1 _ _), readFb_writeFb _ _ _ _ h]
      simp only [writeFb_cfg, elemCW_of_le hc, elemCW_of_le hp.1, elemCW_of_le hp.2.1,
        elemCW_of_le hp.2.2]
      have e3 : 4 + 4 * i + 3 < s.cfg.fbCap := hb
      have e2 : 4 + 4 * i + 2 < s.cfg.fbCap := by omega
      have e1 : 4 + 4 * i + 1 < s.cfg.fbCap := by omega
      have e0 : 4 + 4 * i < s.cfg.fbCap := by omega
      simp only [e0, e1, e2, e3, and_true]
      split_ifs <;> first | omega | rfl
    | single =>
      have h2 (j j' : Nat) (v v' : Elem) := writeFb_wf (writeFb s j v) j' v' (h1 j v)
      simp only [putSingle, storedElement]
      rw [readFb_writeFb _ _ _ _ (h2 _ _ _ _), readFb_writeFb _ _ _ _ (h1 _ _),
        readFb_writeFb _ _ _ _ h]
      simp only [writeFb_cfg, elemCW_of_le hp.1, elemCW_of_le hp.2.1, elemCW_of_le hp.2.2]
      have e2 : 3 * i + 2 < s.cfg.fbCap := by omega
      have e1 : 3 * i + 1 < s.cfg.fbCap := by omega
      have e0 : 3 * i < s.cfg.fbCap := by omega
      simp only [e0, e1, e2, and_true]
      split_ifs <;> first | omega | rfl
    | pwm => rfl

/-- What a pixel write leaves in the duty registers. -/
theorem putPixel_duty (i : Nat) (p : Pixel) (s : State) :
    (putPixel i p s).duty = if s.proto = .pwm ∧ i < s.len.toNat then p else s.duty := by
  unfold putPixel
  by_cases hi : s.len.toNat ≤ i
  · rw [if_pos hi, if_neg (fun h => Nat.not_lt.mpr hi h.2)]
  · rw [if_neg hi]
    cases hq : s.proto with
    | clocked => simp [putClocked]
    | single => simp [putSingle]
    | pwm => simp [Nat.lt_of_not_le hi]

/-! ### A strip of pixel writes -/

/-- No element belongs to two pixels. -/
theorem storedElement_disjoint {c : Config} {proto : Proto} {i i' j : Nat} {p p' : Pixel} {v : Elem}
    (h : storedElement c proto i p j = some v) (hi : i' ≠ i) :
    storedElement c proto i' p' j = none := by
  cases proto with
  | clocked =>
    simp only [storedElement] at h ⊢
    rw [if_neg, if_neg, if_neg, if_neg] <;>
      · rintro rfl
        split_ifs at h <;> omega
  | single =>
    simp only [storedElement] at h ⊢
    rw [if_neg, if_neg, if_neg] <;>
      · rintro rfl
        split_ifs at h <;> omega
  | pwm => rfl

/-- Which elements a pixel owns does not depend on its colour. -/
theorem storedElement_none {c : Config} {proto : Proto} {i j : Nat} (p p' : Pixel)
    (h : storedElement c proto i p j = none) : storedElement c proto i p' j = none := by
  cases proto <;> simp only [storedElement] at h ⊢ <;> split_ifs at h ⊢ <;> trivial

/-- Writing the pixels `0` to `n - 1` of a strip, in any colours that fit, leaves exactly those
pixels written. -/
theorem forBelow_putPixel_leavesPixels (s : State) (n : Nat) (colour : Nat → Pixel)
    (h : Memory.wf emptyElem s.fb) (hc : s.cfg.bright.toNat ≤ s.cfg.chMax)
    (hp : ∀ i, (colour i).Fits s.cfg) (hl : s.len.toNat ≤ Config.pixMax) (hn : n ≤ s.len.toNat) :
    Memory.wf emptyElem (forBelow n (fun i t => putPixel i (colour i) t) s).fb ∧
      leavesPixels s (forBelow n (fun i t => putPixel i (colour i) t) s) n colour := by
  induction n with
  | zero =>
    refine ⟨h, rfl, fun i j v hi => absurd hi (Nat.not_lt_zero i), fun j _ => rfl, ?_⟩
    rw [if_neg (fun h => Nat.lt_irrefl 0 h.2)]
    rfl
  | succ n ih =>
    obtain ⟨hw, hs, hin, hout, hd⟩ := ih (Nat.le_of_succ_le hn)
    simp only [forBelow]
    generalize forBelow n (fun i t => putPixel i (colour i) t) s = t at *
    have hcfg : t.cfg = s.cfg := by rw [hs]; rfl
    have hproto : t.proto = s.proto := by rw [hs]; rfl
    have hlen : t.len = s.len := by rw [hs]; rfl
    have hread (j : Nat) := readFb_putPixel n (colour n) t j hw (hcfg ▸ hc) (hcfg ▸ hp n) (hlen ▸ hl)
    simp only [hlen, hcfg, hproto, if_pos (Nat.lt_of_succ_le hn)] at hread
    refine ⟨putPixel_wf _ _ _ hw, State.sameButPixels_trans hs (putPixel_sameButPixels _ _ _), ?_, ?_,
      ?_⟩
    · intro i j v hi hv
      rw [hread]
      rcases Nat.lt_succ_iff_lt_or_eq.mp hi with hi | rfl
      · rw [storedElement_disjoint hv (Nat.ne_of_gt hi)]
        exact hin i j v hi hv
      · rw [hv]
        rfl
    · intro j hj
      rw [hread, hj n (Nat.lt_succ_self n)]
      exact hout j fun i hi => hj i (Nat.lt_succ_of_lt hi)
    · rw [putPixel_duty, hproto, hlen]
      by_cases hq : s.proto = .pwm
      · rw [if_pos ⟨hq, Nat.lt_of_succ_le hn⟩, if_pos ⟨hq, Nat.succ_pos n⟩]
        rfl
      · rw [if_neg (fun h => hq h.1), if_neg (fun h => hq h.1), hd, if_neg (fun h => hq h.1)]

end Sys2Proof.Machine
end

