-- ==== Sys2Proof/Tests/Slice0.lean ====
section
/-! SUPPORT. The model's own tests: words written out from 30_encoding.md, single commands on small
states with the results that 95_test_vectors.md gives, and for every statement with hypotheses a
state and operands that meet them together. -/

namespace Sys2Proof.Tests

-- One test at a time: the tests run in the kernel, and together they pass its memory bound.
set_option Elab.async false

open Sys2Proof Sys2Proof.Machine

/-! ### Well-formedness, decoding and encoding -/

theorem test_wellFormed_refuses_proto3 : (Instr.rendInit 5#11 3#2).wellFormed = false := by decide

theorem test_wellFormed_accepts_proto2 : (Instr.rendInit 5#11 2#2).wellFormed = true := by decide

/-- 30_encoding.md R106 and 95_test_vectors.md 2.1, format N and X. -/
theorem test_decode_words_without_count :
    [0x00000000#32, 0x00000001#32, 0x00000002#32, 0x00000003#32, 0x00000004#32, 0x00FFFF08#32,
      0x00000010#32, 0x00000011#32, 0x00000012#32, 0x00000013#32, 0x00000018#32, 0x00000019#32,
      0x00000021#32, 0x00000029#32, 0x0000002A#32].map (fun w => (decode w).toOption) =
    [some .allOff, some .fillGradient, some .fillGradientDual, some .fillTriangle,
      some .fillRandom, some (.setPixel 65535#16), some .hsv2rgb, some .hsvInterp, some .scale,
      some .mapRange, some .lcgNext, some .lcgNextF, some .sprTick, some .msgLoad,
      some .frameTick] := by decide

/-- 30_encoding.md R106 and 95_test_vectors.md 2.1, formats S and C. -/
theorem test_decode_words_with_count :
    [0x00000320#32, 0x00040020#32, 0x0007FF20#32, 0x00000528#32, 0x01000328#32, 0x02000128#32,
      0x00040028#32].map (fun w => (decode w).toOption) =
    [some (.sprInit 3#11), some (.sprInit 1024#11), some (.sprInit 2047#11),
      some (.rendInit 5#11 0#2), some (.rendInit 3#11 1#2), some (.rendInit 1#11 2#2),
      some (.rendInit 1024#11 0#2)] := by decide

/-- 95_test_vectors.md 2.1, the illegal words. -/
theorem test_decode_refuses :
    [0x00000005#32, 0x00000100#32, 0x01000008#32, 0x00080020#32, 0x03000528#32, 0x00080028#32,
      0x04000028#32, 0xFFFFFFFF#32].map (fun w => (decode w).toOption) =
    List.replicate 8 none := by decide

theorem test_encode_setPixel : encode (.setPixel 3#16) = 0x00000308#32 := by decide

theorem test_encode_rendInit : encode (.rendInit 3#11 1#2) = 0x01000328#32 := by decide

theorem test_decodeTableWord :
    decodeTableWord 32 0x00000320 = some (.sprInit 3#11) ∧ decodeTableWord 32 0x03000528 = none := by
  decide

/-! ### Small states -/

/-- Reset, with the parameters of the vectors: `CW` = 8. -/
def base8 : State := State.resetFor Config.suggested8 [] [] []

/-- The colours A = (0.0, 1.0, 1.0) and B = (0.5, 1.0, 1.0) of 95_test_vectors.md 2.6. -/
def withColours (s : State) : State :=
  { s with a := { h := 0#32, s := fOne, v := fOne }, b := { h := 0x3F000000#32, s := fOne, v := fOne } }

/-- A strip of `len` pixels, its buffer still empty. -/
def strip (len : Nat) (proto : Proto) (s : State) : State := s.setRenderer (BitVec.ofNat 11 len) proto

/-- The bank of vector V1 after SPR_INIT (95_test_vectors.md 2.5). -/
def bankV1 (s : State) : State :=
  { s with
    spr := [(0, { value := 0x3DD8D8D9#32, target := 0x3F38B8B9#32, step := 0x3BBA53EE#32 }),
      (1, { value := 0x3F76F6F7#32, target := 0x3F77F7F8#32, step := 0x3B808080#32 }),
      (2, { value := 0x3F4DCDCE#32, target := 0x3F028283#32, step := 0x3BBCE5DC#32 })]
    nspr := 3#11
    seedLo := 1314989459#32
    vscale := fOne
    sscale := 0x3C23D70A#32 }

/-- The message bytes of 95_test_vectors.md 2.7, first row. -/
def messageBytes : Memory Byte :=
  [(0, 0x04#8), (7, 0x80#8), (8, 0x3F#8), (11, 0x80#8), (12, 0x3F#8), (16, 0x3F#8), (19, 0x80#8),
    (20, 0x3F#8), (23, 0x80#8), (24, 0x3F#8)]

/-- The message they spell. -/
def messageV : Message :=
  { pattern := .random, startC := { h := 0#32, s := fOne, v := fOne },
    endC := { h := 0x3F000000#32, s := fOne, v := fOne } }

/-- What is seen of the state that a command leaves; `none` where it stops. -/
def seen {α : Type} (i : Instr) (s : State) (f : State → α) : Option α :=
  match exec i s with
  | .next t => some (f t)
  | .fault _ => none
  | .refused _ => none

/-- The first `n` pixels of the strip, as (red, green, blue). -/
def pixels (n : Nat) (s : State) : List (Nat × Nat × Nat) :=
  (List.range n).map fun i =>
    ((pixelAt s i).r.toNat, (pixelAt s i).g.toNat, (pixelAt s i).b.toNat)

/-- The first `n` elements of the frame buffer. -/
def elements (n : Nat) (s : State) : List Nat := (List.range n).map fun j => (readFb s j).toNat

/-! ### One command each, with the results of 95_test_vectors.md -/

/-- Program P2, last row, on two pixels. -/
theorem test_allOff_keeps_brightness :
    seen .allOff ((strip 2 .clocked base8).setFb [(5, 7#16), (11, 9#16), (12, 8#16)]) (elements 13) =
      some [0, 0, 0, 0, 255, 0, 0, 0, 255, 0, 0, 0, 8] := by decide +kernel

/-- Vector F12. -/
theorem test_fillGradient_F12 :
    seen .fillGradient (withColours (strip 3 .single base8)) (pixels 3) =
      some [(255, 0, 0), (127, 255, 0), (0, 255, 255)] := by decide +kernel

/-- Vector F14, pixel by pixel in clocked-RGB, with `CW` = 16. -/
theorem test_fillGradient_F14 :
    seen .fillGradient
      { strip 4 .clocked State.reset with
        a := { h := 0x3F666666#32, s := 0x3F000000#32, v := 0x3E800000#32 }
        b := { h := 0x3DCCCCCD#32, s := fOne, v := 0x3F400000#32 } } (pixels 4) =
      some [(16383, 8191, 13107), (9102, 12742, 27306), (6371, 38228, 12742), (49151, 29490, 0)] := by
  decide +kernel

/-- Vector F2. -/
theorem test_fillGradientDual_F2 :
    seen .fillGradientDual (withColours (strip 5 .single base8)) (pixels 5) =
      some [(255, 0, 0), (127, 255, 0), (0, 255, 255), (127, 255, 0), (255, 0, 0)] := by
  decide +kernel

/-- Vector F11. -/
theorem test_fillGradientDual_F11 :
    seen .fillGradientDual (withColours (strip 2 .single base8)) (pixels 2) =
      some [(255, 0, 0), (255, 0, 0)] := by decide +kernel

/-- Vector F5. -/
theorem test_fillTriangle_F5 :
    seen .fillTriangle { withColours (strip 5 .single base8) with phase := 0x3E800000#32 } (pixels 5) =
      some [(127, 255, 0), (0, 255, 255), (127, 255, 0), (255, 0, 0), (127, 255, 0)] := by
  decide +kernel

/-- Program P4, its first fill. -/
theorem test_fillTriangle_writes_duty :
    seen .fillTriangle { withColours (strip 1 .pwm State.reset) with phase := 0x3E800000#32 }
      (fun t => (t.duty, t.fb)) =
      some ({ r := 32767#16, g := 65535#16, b := 0#16 }, []) := by decide +kernel

/-- 95_test_vectors.md 2.6, the bank after SPR_INIT; pixel 3 has no sprite. -/
theorem test_fillRandom_stops_at_the_bank :
    seen .fillRandom (bankV1 (withColours (strip 4 .single (base8.setFb [(9, 77#16)])))) (pixels 4) =
      some [(0, 255, 174), (255, 26, 0), (255, 149, 0), (77, 0, 0)] := by decide +kernel

/-- 95_test_vectors.md 2.6, layouts. -/
theorem test_setPixel_clocked_order :
    seen (.setPixel 2#16)
      ((strip 3 .clocked base8).setPix { r := 0x11#16, g := 0x22#16, b := 0x33#16 }) (elements 17) =
      some [0, 0, 0, 0, 0, 0, 0, 0, 0, 0, 0, 0, 0xFF, 0x33, 0x22, 0x11, 0] := by decide +kernel

/-- Program P1, its last command. -/
theorem test_setPixel_out_of_range :
    seen (.setPixel 3#16)
      ((strip 3 .single base8).setPix { r := 204#16, g := 163#16, b := 102#16 }) (fun t => t.fb) =
      some [] := by decide +kernel

/-- 95_test_vectors.md 2.4, the row of (0.1, 0.5, 0.8). -/
theorem test_hsv2rgb_sector0 :
    seen .hsv2rgb { base8 with a := { h := 0x3DCCCCCD#32, s := 0x3F000000#32, v := 0x3F4CCCCD#32 } }
      (fun t => t.pix) = some { r := 204#16, g := 163#16, b := 102#16 } := by decide +kernel

/-- 95_test_vectors.md 2.4, the gamma stage on that row. -/
theorem test_hsv2rgb_gamma :
    seen .hsv2rgb
      { base8 with
        gammaEn := true
        gamma := [(102, 40#16), (163, 104#16), (204, 163#16)]
        a := { h := 0x3DCCCCCD#32, s := 0x3F000000#32, v := 0x3F4CCCCD#32 } }
      (fun t => t.pix) = some { r := 163#16, g := 104#16, b := 40#16 } := by decide +kernel

/-- 95_test_vectors.md 2.4, `t` = 0.3. -/
theorem test_hsvInterp_formula :
    seen .hsvInterp
      { base8 with
        a := { h := 0x3F666666#32, s := 0x3F000000#32, v := 0x3E800000#32 }
        b := { h := 0x3DCCCCCD#32, s := fOne, v := 0x3F400000#32 }
        t := 0x3E99999A#32 }
      (fun t => t.r) = some { h := 0x3F28F5C2#32, s := 0x3F266666#32, v := 0x3ECCCCCD#32 } := by
  decide +kernel

/-- 95_test_vectors.md 2.4, `t` = 1.0: the endpoint, not the bare formula. -/
theorem test_hsvInterp_endpoint :
    seen .hsvInterp
      { base8 with
        a := { h := fOne, s := fOne, v := fOne }
        b := { h := 0x3DCCCCCD#32, s := 0x3DCCCCCD#32, v := 0x3DCCCCCD#32 }
        t := fOne }
      (fun t => t.r.h) = some 0x3DCCCCCD#32 := by decide +kernel

/-- 95_test_vectors.md 2.2. -/
theorem test_scale_wide_value :
    seen .scale { base8 with x0 := 1000#32, x1 := 64#32 } (fun t => t.xr) = some 253#32 := by
  decide +kernel

/-- 95_test_vectors.md 2.2, the factor clamped. -/
theorem test_scale_clamps_factor :
    seen .scale { base8 with x0 := 0xFFFFFFFF#32, x1 := 300#32 } (fun t => t.xr) =
      some 0xFFFFFFFF#32 := by decide +kernel

/-- 95_test_vectors.md 2.2, `CW` = 16. -/
theorem test_mapRange_wide :
    seen .mapRange { State.reset with x0 := 1#32, x1 := 3#32, x2 := 0xFFFFFFFF#32 }
      (fun t => t.xr) = some 1431699455#32 := by decide +kernel

/-- 95_test_vectors.md 2.2, `input_max` = 0. -/
theorem test_mapRange_zero_max :
    seen .mapRange { base8 with x0 := 5#32, x2 := 1000#32 } (fun t => t.xr) = some 3#32 := by
  decide +kernel

/-- 95_test_vectors.md 2.3. -/
theorem test_lcgNext_from_42 :
    seen .lcgNext { base8 with seedLo := 42#32 } (fun t => (t.seedLo, t.rndF)) =
      some (1250496027#32, 0#32) := by decide +kernel

/-- 95_test_vectors.md 2.3, the seed `2^64 - 1`. -/
theorem test_lcgNext_wide_seed :
    seen .lcgNext { base8 with seedLo := 0xFFFFFFFF#32, seedHi := 0xFFFFFFFF#32 }
      (fun t => (t.seedLo, t.seedHi)) = some (1043980748#32, 0#32) := by decide +kernel

/-- 95_test_vectors.md 2.3. -/
theorem test_lcgNextF_from_42 :
    seen .lcgNextF { base8 with seedLo := 42#32 } (fun t => (t.seedLo, t.rndF)) =
      some (1250496027#32, 0x3DD8D8D9#32) := by decide +kernel

/-- Vector V1. -/
theorem test_sprInit_V1 :
    seen (.sprInit 3#11) { base8 with seedLo := 42#32, vscale := fOne, sscale := 0x3C23D70A#32 }
      (fun t => (t.spr, t.nspr, t.seedLo)) =
      some ((bankV1 base8).spr, 3#11, 1314989459#32) := by decide +kernel

/-- Vector V3: the step floor. -/
theorem test_sprInit_V3 :
    seen (.sprInit 1#11) { base8 with seedLo := 7#32, vscale := 0x3F000000#32 } (fun t => t.spr) =
      some [(0, { value := 0x3DD0D0D1#32, target := 0x3E3ABABB#32, step := 0x3A83126F#32 })] := by
  decide +kernel

/-- Vector V1, tick 1: no sprite draws, not even the one that arrives. -/
theorem test_sprTick_V1_tick1 :
    seen .sprTick (bankV1 base8)
      (fun t => ((List.range 3).map (fun k => (readSprite t k).value), t.seedLo)) =
      some ([0x3DE47E18#32, 0x3F77F7F8#32, 0x3F4C5402#32], 1314989459#32) := by decide +kernel

/-- Vector V1, tick 2, sprite 1 alone: it re-targets on the tick after arrival. -/
theorem test_sprTick_V1_tick2 :
    seen .sprTick
      { bankV1 base8 with
        nspr := 1#11
        spr := [(0, { value := 0x3F77F7F8#32, target := 0x3F77F7F8#32, step := 0x3B808080#32 })] }
      (fun t => (t.spr, t.seedLo)) =
      some ([(0, { value := 0x3F77F7F8#32, target := 0x3F50D0D1#32, step := 0x3C0124FC#32 })],
        391441865#32) := by decide +kernel

/-- 44_render.md R186, its example. -/
theorem test_rendInit_clocked :
    seen (.rendInit 2#11 0#2) (base8.setFb [(5, 7#16), (20, 7#16)]) (elements 24) =
      some [0, 0, 0, 0, 255, 0, 0, 0, 255, 0, 0, 0, 255, 255, 255, 255, 0, 0, 0, 0, 0, 0, 0, 0] := by
  decide +kernel

/-- Program P4, its first command. -/
theorem test_rendInit_pwm :
    seen (.rendInit 5#11 2#2) base8 (fun t => (t.len, t.proto, t.fb, t.status.rendOk)) =
      some (1#11, .pwm, [], true) := by decide +kernel

/-- 95_test_vectors.md 2.7, first row. -/
theorem test_msgLoad_adopts :
    seen .msgLoad (base8.setMsgbuf messageBytes) (fun t => (t.act, statusWord t.status)) =
      some (messageV, 0x18#32) := by decide +kernel

/-- 95_test_vectors.md 2.7, last row: a NaN, 2.0 and -1.0. -/
theorem test_msgLoad_sanitises :
    seen .msgLoad
      (base8.setMsgbuf [(0, 1#8), (3, 0xC0#8), (4, 0x7F#8), (8, 0x40#8), (11, 0x80#8), (12, 0xBF#8)])
      (fun t => t.act) =
      some { pattern := .gradient, startC := { h := 0#32, s := fOne, v := 0#32 },
             endC := Hsv.zero } := by decide +kernel

/-- Program P3, its first frame: the fill before the tick. -/
theorem test_frameTick_P3 :
    seen .frameTick ((bankV1 (strip 4 .single base8)).setAct messageV)
      (fun t => (pixels 4 t, (readSprite t 0).value, t.seedLo)) =
      some ([(0, 255, 174), (255, 26, 0), (255, 149, 0), (0, 0, 0)], 0x3DE47E18#32,
        1314989459#32) := by decide +kernel

/-- Pattern 1 ticks no sprite (45_host_control.md R217, 90_conflicts.md C5). -/
theorem test_frameTick_gradient :
    seen .frameTick ((bankV1 (strip 3 .single base8)).setAct { messageV with pattern := .gradient })
      (fun t => (pixels 3 t, t.spr)) =
      some ([(255, 0, 0), (127, 255, 0), (0, 255, 255)], (bankV1 base8).spr) := by decide +kernel

/-! ### The port and the step -/

/-- 95_test_vectors.md 2.4, register sanitising. -/
theorem test_clamp_on_write :
    [0x7FC00000#32, 0x80000000#32, 0x3FC00000#32, 0xBF800000#32, 0x7F800000#32, 0x00000001#32].map
      (fun w => readReg (writeReg base8 w .aH) .aH) =
    [0#32, 0#32, 0x3F800000#32, 0#32, 0x3F800000#32, 1#32] := by decide +kernel

/-- 10_state.md R32: some numbers of the register map. -/
theorem test_register_numbers :
    [0, 1, 2, 9, 16, 21, 28, 29, 38, 39].map regOfNumber =
    [some .cmd, some .status, some .ctrl, some .t, some .pixB, some .seedLo, some .proto,
      some .actPattern, some .dutyB, none] := by decide

/-- Program P5: an illegal word, written to `CMD`, then a read of `STATUS`. -/
theorem test_step_illegal_word :
    (match step (State.reset.withFetchWord 32 0x00000005) with
      | .next t => some (readReg t .status, t.pending)
      | _ => none) = some (0x80#32, []) := by decide +kernel

/-- Program P1, its first command, as the first after reset. -/
theorem test_step_rendInit :
    (match step (State.reset.withFetchWord 32 0x01000328) with
      | .next t => some (readReg t .len, readReg t .proto, readReg t .status)
      | _ => none) = some (3#32, 1#32, 2#32) := by decide +kernel

/-- A read answers and changes nothing else (20_memory.md R76). -/
theorem test_step_read :
    step (base8.setPending [.regRead 19]) = .next (base8.setAnswer (some 0#32)) := rfl

/-! ### Witnesses: states and operands that meet the hypotheses of the statements -/

/-- A state with a strip, a bank, colours, an active message and something in every memory. -/
def demo : State :=
  { bankV1 (withColours (strip 3 .clocked base8)) with
    t := 0x3F000000#32
    phase := 0x3E800000#32
    pix := { r := 0x11#16, g := 0x22#16, b := 0x33#16 }
    act := messageV
    fb := [(3, 1#16), (5, 7#16), (16, 9#16)]
    gamma := [(0, 1#16), (255, 250#16)]
    msgbuf := messageBytes }

/-- `demo` with one sprite above its target, one below it and one at it. -/
def demoBank : State :=
  { demo with
    spr := [(0, { value := fOne, target := 0x3F000000#32, step := 0x3BBA53EE#32 }),
      (1, { value := 0x3F000000#32, target := fOne, step := 0x3BBA53EE#32 }),
      (2, { value := 0x3F000000#32, target := 0x3F000000#32, step := 0x3BBA53EE#32 })] }

/-- `demo` with the next host access to come. -/
def demoWith (e : Event) : State := demo.setPending [e]

theorem suggested8_wf : Config.suggested8.WF := by
  constructor
  case gammaInit => intro g hg; cases hg
  all_goals decide

/-- The parameters of the vectors with a `GAMMA_INIT` that gives the first and the last entry. -/
def withGammaInit : Config := { Config.suggested8 with gammaInit := some [(0, 1#16), (255, 250#16)] }

theorem withGammaInit_wf : withGammaInit.WF := by
  constructor
  case gammaInit => intro g hg; cases hg; decide
  all_goals decide

/-- 10_state.md R59: every reset of an instance with a `GAMMA_INIT` leaves that in `GAMMA`. -/
theorem test_reset_loads_gammaInit :
    readGamma (resetEvent { fb := [], spr := [], gamma := [(255, 9#16)] }
      ({ demo with cfg := withGammaInit } : State)) 255 = 250#16 := by decide +kernel

theorem demo_inv : demo.Inv := by
  constructor
  case cfg => exact suggested8_wf
  all_goals decide +kernel

theorem demoBank_inv : demoBank.Inv := by
  constructor
  case cfg => exact suggested8_wf
  all_goals decide +kernel

theorem demoWith_inv (e : Event) : (demoWith e).Inv := { demo_inv with }

theorem witness_DecodeInvertsEncode : (Instr.rendInit 2047#11 2#2).WF := by decide

theorem witness_DecodedWordIsItsEncoding : decode 0x02000128#32 = .ok (.rendInit 1#11 2#2) := rfl

/-- The first and the last opcode of each reserved range. -/
theorem witness_ReservedOpcodesAreIllegal :
    (∀ w ∈ [0x05#32, 0x07#32, 0x09#32, 0x0F#32, 0x14#32, 0x17#32, 0x1A#32, 0x1F#32, 0x22#32,
        0x27#32, 0x2B#32, 0xFFFFFFFF#32],
      (let op := (opcodeField w).toNat
       (0x05 ≤ op ∧ op ≤ 0x07) ∨ (0x09 ≤ op ∧ op ≤ 0x0F) ∨ (0x14 ≤ op ∧ op ≤ 0x17) ∨
       (0x1A ≤ op ∧ op ≤ 0x1F) ∨ (0x22 ≤ op ∧ op ≤ 0x27) ∨ 0x2B ≤ op)) ∧
    decode 0x08#32 = .ok (.setPixel 0#16) := ⟨by simp [opcodeField], rfl⟩

theorem witness_StepRunsDecodedCommand :
    decode 0x12#32 = .ok .scale ∧ (demoWith (.regWrite 0 0x12#32)).pending = .regWrite 0 0x12#32 :: [] ∧
      (demoWith (.busRegWrite 0 4 0x12#32)).pending = .busRegWrite 0 4 0x12#32 :: [] := ⟨rfl, rfl, rfl⟩

theorem witness_StepServesHostAccess :
    (demoWith (.msgWrite 24 9#32)).pending = .msgWrite 24 9#32 :: [] ∧
      commandWord (.msgWrite 24 9#32) = none ∧ commandWord (.busRegWrite 0 2 9#32) = none :=
  ⟨rfl, rfl, by decide⟩

theorem witness_IllegalWordOnlySetsIll :
    (demoWith (.regWrite 0 0x03000528#32)).pending = .regWrite 0 0x03000528#32 :: [] ∧
      (demoWith (.busRegWrite 0 4 0x03000528#32)).pending = .busRegWrite 0 4 0x03000528#32 :: [] ∧
      ¬ spellsCommand 0x03000528#32 := ⟨rfl, rfl, by decide⟩

theorem witness_StepAlwaysAnswersNext : demo.pending = [] := rfl

theorem witness_StickyFlagsStayUntilReset :
    ∃ s t : State, s.status.ill = true ∧ s.status.rendOk = true ∧ s.status.sprOk = true ∧
      step s = .next t ∧ ∀ c rest, s.pending ≠ .reset c :: rest :=
  ⟨(demoWith (.regWrite 0 0x2A#32)).setStatus
      { rendOk := true, sprOk := true, msgValid := true, msgChanged := false, ill := true },
    _, rfl, rfl, rfl, rfl, by intro c rest h; cases h⟩

/-- A command that writes no flag and one that writes two. -/
theorem witness_CommandsIgnoreStatus :
    (∃ t, exec .frameTick demo = .next t) ∧ ∃ t, exec .msgLoad demo = .next t := ⟨⟨_, rfl⟩, _, rfl⟩

theorem witness_CommandsNeverReadFrameBuffer :
    Memory.wf emptyElem demo.fb ∧ Memory.wf emptyElem [(5, 8#16)] ∧
      ∃ t, exec .fillRandom demo = .next t := ⟨by decide, by decide, _, rfl⟩

/-- The last header element, the first element of the end frame, and one beyond the buffer. -/
theorem witness_OnlyRendInitChangesFraming :
    demo.Inv ∧ (∃ t, exec .fillGradient demo = .next t) ∧
      (∀ len proto, Instr.fillGradient ≠ .rendInit len proto) ∧
      outsidePixels demo 3 ∧ outsidePixels demo 16 ∧ outsidePixels demo 5000 ∧
      ¬ outsidePixels demo 4 ∧ ¬ outsidePixels demo 15 := by
  have len_eq : demo.len.toNat = 3 := by decide +kernel
  have out (j : Nat) : outsidePixels demo j ↔ j < 4 ∨ 16 ≤ j := by
    change (j < 4 ∨ 4 + 4 * demo.len.toNat ≤ j) ↔ _
    rw [len_eq]
  refine ⟨demo_inv, ⟨_, rfl⟩, (by intro _ _ h; cases h), ?_⟩
  simp only [out]
  decide

theorem witness_CommandsKeepHostState : ∃ t, exec .msgLoad demo = .next t := ⟨_, rfl⟩

theorem witness_OnlyListedAccessesChangeSeed :
    (∃ t, exec .frameTick (demo.setAct { messageV with pattern := .dual }) = .next t) ∧
      (demo.setAct { messageV with pattern := .dual }).act.pattern ≠ .random ∧
      (∀ w, Event.regWrite 20 5#32 ≠ .regWrite 21 w) ∧
      (∀ w, Event.regWrite 20 5#32 ≠ .regWrite 22 w) := by
  refine ⟨⟨_, rfl⟩, by decide, ?_, ?_⟩ <;> · intro w h; injection h; contradiction

theorem witness_StepKeepsParameters : ∃ t, step (demoWith (.fbWrite 3 9#32)) = .next t := ⟨_, rfl⟩

theorem witness_InvariantHoldsAtReset :
    Config.suggested8.WF ∧ withGammaInit.WF ∧
      elemsOk Config.suggested8 Config.suggested8.fbCap [(4103, 5#16)] ∧
      elemsOk Config.suggested8 (Config.suggested8.chMax + 1) [(255, 255#16)] ∧
      Memory.wf emptySprite [(1023, { emptySprite with value := 0xFFFFFFFF#32 })] ∧
      ∀ x ∈ [((1023 : Nat), { emptySprite with value := 0xFFFFFFFF#32 })], x.1 < Config.nMax :=
  ⟨suggested8_wf, withGammaInit_wf, by decide +kernel, by decide +kernel, by decide +kernel,
    by decide⟩

theorem witness_StepKeepsInvariant :
    (demoWith (.regWrite 0 0x2A#32)).Inv ∧ ∃ t, step (demoWith (.regWrite 0 0x2A#32)) = .next t :=
  ⟨demoWith_inv _, _, rfl⟩

/-- Contents that mention the last index of each memory, without a `GAMMA_INIT` and with one. -/
theorem witness_ResetEventGivesResetState :
    let c : ResetContents :=
      { fb := [(4103, 0x1FF#16)], spr := [(1023, emptySprite)], gamma := [(255, 3#16)] }
    (demoWith (.reset c)).pending = .reset c :: [] ∧ 4103 < demo.cfg.fbCap ∧
      c.fb.find? (fun x => x.1 = 4103) = some (4103, 0x1FF#16) ∧
      c.spr.find? (fun x => x.1 = 1023) = some (1023, emptySprite) ∧ 255 ≤ demo.cfg.chMax ∧
      demo.cfg.gammaInit = none ∧ c.gamma.find? (fun x => x.1 = 255) = some (255, 3#16) ∧
      ({ demoWith (.reset c) with cfg := withGammaInit } : State).pending = .reset c :: [] ∧
      withGammaInit.gammaInit = some [(0, 1#16), (255, 250#16)] ∧ 255 ≤ withGammaInit.chMax :=
  ⟨rfl, by decide, by decide, by decide, by decide, rfl, by decide, rfl, rfl, by decide⟩

theorem witness_AccessesAreIdempotent :
    answerOf demo (.sprRead 1 .step) = some 0x3B808080#32 ∧ demo.Inv ∧
      commandWord (.gammaWrite 255 7#32) = none := ⟨rfl, demo_inv, rfl⟩

/-- The first index out of each range. -/
theorem witness_OutOfRangeAccessesDoNothing :
    demo.cfg.fbCap ≤ 4104 ∧ demo.cfg.chMax < 256 := by decide

/-- The first and the last number of each range of read-only registers. -/
theorem witness_RegisterWritesReadBack :
    (∀ n ∈ [1, 11, 13, 20, 23, 26, 38],
      n = 1 ∨ (11 ≤ n ∧ n ≤ 13) ∨ n = 20 ∨ n = 23 ∨ (26 ≤ n ∧ n ≤ 38)) ∧
      Reg.seedLo ≠ Reg.seedHi ∧ Reg.cmd ≠ Reg.status := by decide

/-- The last index of each range. -/
theorem witness_MemoryWritesReadBack :
    demo.Inv ∧ 4103 < demo.cfg.fbCap ∧ 255 ≤ demo.cfg.chMax ∧ 24 < 25 ∧ 1023 < 1024 :=
  ⟨demo_inv, by decide, by decide, by decide, by decide⟩

/-- A misaligned word and an aligned byte. -/
theorem witness_BusAccessesAreAlignedWords : (4 ≠ 4 ∨ 6 % 4 ≠ 0) ∧ (1 ≠ 4 ∨ 8 % 4 ≠ 0) := by decide

/-- 1.0 and -0.25 + an ulp, and 1.0 over 6.0. -/
theorem witness_FloatOperationsRoundToNearest :
    isFinite fOne ∧ isFinite 0xBE800001#32 ∧
      |floatValue fOne + floatValue 0xBE800001#32| ≤ 65535 ∧
      |floatValue fOne - floatValue 0xBE800001#32| ≤ 65535 ∧
      |floatValue fOne * floatValue 0xBE800001#32| ≤ 65535 ∧
      floatValue 0xBE800001#32 ≠ 0 ∧ |floatValue fOne / floatValue 0xBE800001#32| ≤ 65535 := by
  have h1 : floatValue fOne = 1 := by decide +kernel
  have h2 : floatValue 0xBE800001#32 = -(8388609 / 33554432) := by decide +kernel
  rw [h1, h2]
  refine ⟨by decide, by decide, ?_⟩
  norm_num [abs_of_nonneg, abs_of_nonpos]

theorem witness_FloatHelpersAreExact :
    isFinite 0xBF000000#32 ∧ 16777215 < 2 ^ 24 ∧ isNaN 0x7FC00000#32 = true := by decide

/-- Each clause, at the two ends of the middle one. -/
theorem witness_FloatToIntTruncates :
    isNaN 0xFFC00000#32 = true ∧ isFinite 0x80000000#32 ∧ floatValue 0x80000000#32 ≤ 0 ∧
      isFinite 0x4F800000#32 ∧ 4294967296 ≤ floatValue 0x4F800000#32 ∧
      isFinite 0x00000001#32 ∧ 0 < floatValue 0x00000001#32 ∧
      floatValue 0x00000001#32 < 4294967296 ∧ isFinite 0x4F7FFFFF#32 ∧
      0 < floatValue 0x4F7FFFFF#32 ∧ floatValue 0x4F7FFFFF#32 < 4294967296 := by decide +kernel

/-- Each clause, at the two ends of the middle one. -/
theorem witness_ClampMapsEveryPattern :
    isNaN 0x7F800001#32 = true ∧ isFinite 0x80000000#32 ∧ floatValue 0x80000000#32 ≤ 0 ∧
      isFinite fOne ∧ 1 ≤ floatValue fOne ∧ 0 < floatValue 0x00000001#32 ∧
      floatValue 0x00000001#32 < 1 ∧ 0 < floatValue 0x3F7FFFFF#32 ∧
      floatValue 0x3F7FFFFF#32 < 1 := by decide +kernel

/-- The first factor that gives the identity, the factor 0 and the value 0. -/
theorem witness_ScaleComputesExactProduct :
    2 ^ demo.cfg.bits - 1 ≤ ({ demo with x1 := 255#32 } : State).x1.toNat ∧ demo.x1.toNat = 0 ∧
      demo.x0.toNat = 0 := by decide

/-- Input equal to a maximum of 1, the maximum 0 and the input 0. -/
theorem witness_MapRangeComputesPercentage :
    0 < ({ demo with x0 := 1#32, x1 := 1#32 } : State).x1.toNat ∧
      ({ demo with x0 := 1#32, x1 := 1#32 } : State).x1.toNat ≤
        ({ demo with x0 := 1#32, x1 := 1#32 } : State).x0.toNat ∧
      demo.x1.toNat = 0 ∧ demo.x0.toNat = 0 := by decide

theorem witness_ScaleAndMapRangeLaws :
    200 ≤ 255 ∧ 15 ≤ 16 ∧ 0 < 15 ∧ 255 < 2 ^ Config.suggested8.bits := by decide

theorem witness_OnlyLowSeedBitsMatter :
    (2 ^ 64 - 1) % 2 ^ 31 = (2 ^ 31 - 1) % 2 ^ 31 ∧
      seedOf ({ demo with seedHi := 7#32, seedLo := 0x80000001#32 } : State) % 2 ^ 31 =
        seedOf ({ demo with seedHi := 0#32, seedLo := 1#32 } : State) % 2 ^ 31 := by decide +kernel

theorem witness_LowByteHasPeriod256 : 256 ∣ 512 ∧ 0 < 1 ∧ 255 < 256 := by decide

theorem witness_Hsv2rgbWritesConvertedPixel :
    demo.gammaEn = false ∧ ({ demo with gammaEn := true } : State).gammaEn = true := by decide

/-- Hue 0.0 (sector 0) in `demo`, and hue 1.0, where the whole part of `6h` is 6. -/
theorem witness_Hsv2rgbFollowsSectorTable :
    demo.Inv ∧ demo.gammaEn = false ∧ floatValue (fmul demo.a.h 0x40C00000#32) = 0 ∧
      floatValue (fmul fOne 0x40C00000#32) = 6 :=
  ⟨demo_inv, rfl, by decide +kernel, by decide +kernel⟩

theorem witness_Hsv2rgbCornerCases :
    ∃ s : State, s.Inv ∧ s.gammaEn = false ∧ s.a.s = 0#32 ∧ s.a.v = 0#32 ∧ s.a.h = fOne := by
  refine ⟨{ base8 with a := { h := fOne, s := 0#32, v := 0#32 } }, ?_, rfl, rfl, rfl, rfl⟩
  constructor
  case cfg => exact suggested8_wf
  all_goals decide +kernel

theorem witness_ChannelTruncates : inUnit 0x3F7FFFFF#32 ∧ inUnit 0x3F800000#32 := by decide

/-- `T` at 0.0, in between (in `demo`) and at 1.0, and A equal to B. -/
theorem witness_HsvInterpIsExactAtEnds :
    demo.Inv ∧ demo.t ≠ fOne ∧ base8.t = 0#32 ∧ base8.a = base8.b ∧
      ({ demo with t := fOne } : State).Inv := by
  refine ⟨demo_inv, by decide, rfl, rfl, ?_⟩
  constructor
  case cfg => exact suggested8_wf
  all_goals decide +kernel

theorem witness_SprInitDrawsInOrder : demo.Inv ∧ 2 < min (3#11).toNat 1024 ∧
    min (2047#11).toNat 1024 ≤ 1024 := ⟨demo_inv, by decide, by decide⟩

/-- A sprite above, below and at its target, the last of them at the last index in use. -/
theorem witness_SprTickUpdatesEverySprite :
    demoBank.Inv ∧ 2 < demoBank.nspr.toNat ∧ demoBank.nspr.toNat ≤ 3 ∧
      floatValue (readSprite demoBank 0).target < floatValue (readSprite demoBank 0).value ∧
      floatValue (readSprite demoBank 1).value < floatValue (readSprite demoBank 1).target ∧
      floatValue (readSprite demoBank 2).value = floatValue (readSprite demoBank 2).target :=
  ⟨demoBank_inv, by decide +kernel, by decide +kernel, by decide +kernel, by decide +kernel,
    by decide +kernel⟩

theorem witness_SpriteDriftNeverOvershoots :
    demoBank.Inv ∧ 1 < demoBank.nspr.toNat ∧
      floatValue (readSprite demoBank 0).target < floatValue (readSprite demoBank 0).value ∧
      floatValue (readSprite demoBank 1).value < floatValue (readSprite demoBank 1).target ∧
      floatValue (readSprite demoBank 1).value ≠ floatValue (readSprite demoBank 1).target :=
  ⟨demoBank_inv, by decide +kernel, by decide +kernel, by decide +kernel, by decide +kernel⟩

/-- The last element of the buffer, and the first beyond an analog PWM frame. -/
theorem witness_RendInitBuildsFrame :
    demo.cfg.WF ∧ (2#2 : BitVec 2) ≠ 3#2 ∧ 4103 < demo.cfg.fbCap ∧
      usedElements demo.cfg .pwm 1 ≤ 0 := ⟨suggested8_wf, by decide, by decide, by decide⟩

theorem witness_AllOffAfterRendInitChangesNothing :
    (0#2 : BitVec 2) ≠ 3#2 ∧ ∃ t, exec (.rendInit 2#11 0#2) demo = .next t := ⟨by decide, _, rfl⟩

/-- The last pixel and the first beyond the strip; an element of that pixel and one of another. -/
theorem witness_SetPixelWritesOnePixel :
    demo.Inv ∧ (2#16).toNat < demo.len.toNat ∧ demo.len.toNat ≤ (3#16).toNat ∧
      storedElement demo.cfg demo.proto 2 demo.pix 15 = some 0x11#16 ∧
      storedElement demo.cfg demo.proto 2 demo.pix 11 = none :=
  ⟨demo_inv, by decide, by decide, by decide, by decide⟩

theorem witness_AllOffBlackensPixels : demo.Inv := demo_inv

theorem witness_FillGradientRendersPositions : demo.Inv := demo_inv

theorem witness_FillGradientDualRendersFold : demo.Inv := demo_inv

theorem witness_FillTriangleRendersShiftedFold : demo.Inv := demo_inv

theorem witness_FillRandomRendersSprites : demo.Inv ∧ 0 < min demo.len.toNat demo.nspr.toNat :=
  ⟨demo_inv, by decide⟩

theorem witness_GradientEndsAreExact : demo.Inv ∧ 1 ≤ demo.len.toNat ∧ 2 ≤ demo.len.toNat :=
  ⟨demo_inv, by decide, by decide⟩

theorem witness_DualGradientEndsAndMiddleAreExact :
    demo.Inv ∧ 1 ≤ demo.len.toNat ∧ 3 ≤ demo.len.toNat ∧ demo.len.toNat % 2 = 1 :=
  ⟨demo_inv, by decide, by decide, by decide⟩

theorem witness_TriangleAtPhaseZeroIsDualGradient :
    ∃ s : State, s.Inv ∧ s.phase = 0#32 ∧ s.len = 3#11 ∧ inUnit 0x3F7FFFFF#32 ∧
      0x3F7FFFFF#32 ≠ fOne := by
  refine ⟨withColours (strip 3 .single base8), ?_, rfl, rfl, by decide, by decide⟩
  constructor
  case cfg => exact suggested8_wf
  all_goals decide +kernel

theorem witness_AllOffRoundTrip : demo.Inv := demo_inv

/-- The first invalid pattern id, a message equal to the active one and one that differs. -/
theorem witness_MsgLoadAdoptsValidMessages :
    4 < (readMsg (demo.setMsgbuf [(0, 5#8)]) 0).toNat ∧
      patternNumber messageV.pattern = (readMsg demo 0).toNat ∧
      [messageV.startC.h, messageV.startC.s, messageV.startC.v, messageV.endC.h, messageV.endC.s,
          messageV.endC.v] =
        (List.range 6).map (fun j => clamp01 (BitVec.ofNat 32
          ((readMsg demo (1 + 4 * j)).toNat + (readMsg demo (2 + 4 * j)).toNat * 2 ^ 8 +
            (readMsg demo (3 + 4 * j)).toNat * 2 ^ 16 +
            (readMsg demo (4 + 4 * j)).toNat * 2 ^ 24))) ∧
      messageV = demo.act ∧ messageV ≠ base8.act :=
  ⟨by decide +kernel, by decide +kernel, by decide +kernel, rfl, by decide⟩

/-- `demo` keeps the invariant with any pattern active. -/
theorem demo_setAct_inv (p : Pattern) : (demo.setAct { messageV with pattern := p }).Inv :=
  { demo_inv with }

/-- Every pattern, the random one (in `demo` itself) with SPR_TICK after its fill. -/
theorem witness_FrameTickIsHostSequence :
    demo.Inv ∧ demo.act.pattern = .random ∧
      ∀ p : Pattern, (demo.setAct { messageV with pattern := p }).Inv ∧
        (demo.setAct { messageV with pattern := p }).act.pattern = p :=
  ⟨demo_inv, rfl, fun p => ⟨demo_setAct_inv p, rfl⟩⟩

end Sys2Proof.Tests
end

/-! The parameters of an implementation never change (00_scope.md R10, 10_state.md R58): every
operation of the machine keeps `cfg`. -/

namespace Sys2Proof.Machine

open Sys2Proof

theorem State.sameButPixels.cfg_eq {s t : State} (h : s.sameButPixels t) : t.cfg = s.cfg := by
  rw [h]; rfl

theorem State.sameButBank.cfg_eq {s t : State} (h : s.sameButBank t) : t.cfg = s.cfg := by
  rw [h]; rfl

theorem allOff_sameButPixels (s : State) : s.sameButPixels (allOff s) :=
  forBelow_sameButPixels fun _ _ => putPixel_sameButPixels _ _ _

theorem fillGradient_sameButPixels (c d : Hsv) (s : State) : s.sameButPixels (fillGradient c d s) :=
  forBelow_sameButPixels fun _ _ => putPixel_sameButPixels _ _ _

theorem fillGradientDual_sameButPixels (c d : Hsv) (s : State) :
    s.sameButPixels (fillGradientDual c d s) :=
  forBelow_sameButPixels fun _ _ => putPixel_sameButPixels _ _ _

theorem fillTriangle_sameButPixels (c d : Hsv) (phase : F32) (s : State) :
    s.sameButPixels (fillTriangle c d phase s) :=
  forBelow_sameButPixels fun _ _ => putPixel_sameButPixels _ _ _

theorem fillRandom_sameButPixels (c d : Hsv) (s : State) : s.sameButPixels (fillRandom c d s) :=
  forBelow_sameButPixels fun _ _ => putPixel_sameButPixels _ _ _

theorem tickSprites_sameButBank (s : State) : s.sameButBank (tickSprites s) :=
  forBelow_sameButBank updateSprite_sameButBank

/-- The framing of a layout is written in `FB` alone. -/
theorem writeFraming_sameButPixels (proto : Proto) (len : Nat) (s : State) :
    s.sameButPixels (writeFraming proto len s) := by
  cases proto with
  | clocked =>
    have hheader : s.sameButPixels (writeHeader s) :=
      forBelow_sameButPixels fun _ _ => writeFb_sameButPixels _ _ _
    have hbright (t : State) : t.sameButPixels (writeBrightness len t) :=
      forBelow_sameButPixels fun _ _ => writeFb_sameButPixels _ _ _
    have hend (t : State) : t.sameButPixels (writeEndFrame len t) :=
      forBelow_sameButPixels fun _ _ => writeFb_sameButPixels _ _ _
    exact State.sameButPixels_trans (State.sameButPixels_trans hheader (hbright _)) (hend _)
  | single => rfl
  | pwm => rfl

theorem constructRenderer_cfg (len : BitVec 11) (proto : Proto) (s : State) :
    (constructRenderer len proto s).cfg = s.cfg :=
  (writeFraming_sameButPixels proto (renderLength len proto)
    ((clearFb s).setDuty Pixel.zero)).cfg_eq

theorem frameTick_cfg (s : State) : (frameTick s).cfg = s.cfg := by
  unfold frameTick
  cases s.act.pattern with
  | allOff => exact (allOff_sameButPixels s).cfg_eq
  | gradient => exact (fillGradient_sameButPixels _ _ s).cfg_eq
  | dual => exact (fillGradientDual_sameButPixels _ _ s).cfg_eq
  | triangle => exact (fillTriangle_sameButPixels _ _ _ s).cfg_eq
  | random =>
    exact (tickSprites_sameButBank _).cfg_eq.trans (fillRandom_sameButPixels _ _ s).cfg_eq

/-- No command changes the parameters. -/
theorem exec_cfg {i : Instr} {s t : State} (h : exec i s = .next t) : t.cfg = s.cfg := by
  cases i with
  | allOff => cases h; exact (allOff_sameButPixels s).cfg_eq
  | fillGradient => cases h; exact (fillGradient_sameButPixels _ _ s).cfg_eq
  | fillGradientDual => cases h; exact (fillGradientDual_sameButPixels _ _ s).cfg_eq
  | fillTriangle => cases h; exact (fillTriangle_sameButPixels _ _ _ s).cfg_eq
  | fillRandom => cases h; exact (fillRandom_sameButPixels _ _ s).cfg_eq
  | setPixel idx => cases h; exact (putPixel_sameButPixels _ _ s).cfg_eq
  | hsv2rgb => cases h; rfl
  | hsvInterp => cases h; rfl
  | scale => cases h; rfl
  | mapRange => cases h; rfl
  | lcgNext => cases h; exact (genNext_sameButBank s).cfg_eq
  | lcgNextF => cases h; exact (State.setRndF_cfg _ _).trans (genNext_sameButBank s).cfg_eq
  | sprInit n =>
    cases h
    exact (forBelow_sameButBank (n := countOperand n Config.nMax) (s := s)
      initSprite_sameButBank).cfg_eq
  | sprTick => cases h; exact (tickSprites_sameButBank s).cfg_eq
  | rendInit len proto =>
    simp only [exec, execRendInit] at h
    split at h
    · cases h; exact constructRenderer_cfg _ _ s
    · cases h; rfl
  | msgLoad =>
    simp only [exec, execMsgLoad] at h
    split at h
    · cases h
      unfold adoptMessage
      split <;> rfl
    · cases h; rfl
  | frameTick => cases h; exact frameTick_cfg s

theorem runCommand_cfg {w : Word} {s t : State} (h : runCommand w s = .next t) :
    t.cfg = s.cfg := by
  unfold runCommand at h
  split at h
  · exact exec_cfg h
  · cases h; rfl

theorem writeRegNumber_cfg (s : State) (n : Nat) (w : Word) :
    (writeRegNumber s n w).cfg = s.cfg := by
  unfold writeRegNumber
  split
  · next r _ => cases r <;> rfl
  · rfl

@[simp] theorem writeGamma_cfg (s : State) (j : Nat) (v : Elem) :
    (writeGamma s j v).cfg = s.cfg := by
  rw [writeGamma_frame]; rfl

@[simp] theorem writeMsg_cfg (s : State) (i : Nat) (v : Byte) : (writeMsg s i v).cfg = s.cfg := by
  rw [writeMsg_frame]; rfl

/-- No host access and no reset changes the parameters. -/
theorem effectOf_cfg (s : State) (e : Event) : (effectOf s e).cfg = s.cfg := by
  cases e with
  | regWrite n w => exact writeRegNumber_cfg s n w
  | busRegWrite offset bytes w => exact writeRegNumber_cfg s _ w
  | fbWrite j v => exact writeFb_cfg s j _
  | gammaWrite j v => exact writeGamma_cfg s j _
  | msgWrite i v => exact writeMsg_cfg s i _
  | reset c => rfl
  | regRead _ | busRegRead _ _ | fbRead _ | sprRead _ _ | sprWrite _ _ _ | gammaRead _
  | msgRead _ => rfl

/-- Settles O17: every arm of a step, command or access, keeps the parameters. -/
theorem stepKeepsParameters : Obligations.StepKeepsParameters := by
  intro s t h
  unfold step at h
  split at h
  · cases h; rfl
  · split at h
    · exact (runCommand_cfg h).trans rfl
    · cases h
      exact effectOf_cfg _ _

end Sys2Proof.Machine

/-! What a pattern stands for as a number (00_scope.md R15): the view, the value and the order of
the finite floats, both signs among them. -/

namespace Sys2Proof.Machine

open Sys2Proof

/-! ### The two parts of a pattern -/

theorem magBits_mkFloat (neg : Bool) {m : Nat} (h : m < 2 ^ 31) : magBits (mkFloat neg m) = m := by
  unfold magBits mkFloat
  rw [BitVec.toNat_ofNat]
  cases neg <;> simp only [Bool.false_eq_true, if_false, if_true] <;> omega

theorem msb_mkFloat (neg : Bool) {m : Nat} (h : m < 2 ^ 31) : (mkFloat neg m).msb = neg := by
  unfold mkFloat
  rw [BitVec.msb_eq_decide, BitVec.toNat_ofNat]
  cases neg <;> simp only [Bool.false_eq_true, if_false, if_true, decide_eq_true_eq,
    decide_eq_false_iff_not] <;> omega

theorem magBits_fneg (a : F32) : magBits (fneg a) = magBits a := by
  unfold magBits fneg
  rw [BitVec.toNat_xor, Nat.xor_mod_two_pow]
  exact Nat.xor_zero _

theorem msb_fneg (a : F32) : (fneg a).msb = !a.msb := by
  unfold fneg
  rw [BitVec.msb_xor]
  exact Bool.xor_true _

/-! ### The sign -/

theorem signedMag_false (m : Nat) : signedMag false m = m := rfl

theorem signedMag_true (m : Nat) : signedMag true m = -(m : Int) := rfl

theorem signedMag_zero (neg : Bool) : signedMag neg 0 = 0 := by cases neg <;> rfl

theorem signedMag_not (neg : Bool) (m : Nat) : signedMag (!neg) m = -signedMag neg m := by
  cases neg <;> simp [signedMag]

theorem signedMag_mul (neg : Bool) (m n : Nat) : signedMag neg (m * n) = signedMag neg m * n := by
  cases neg <;> simp [signedMag]

theorem signedMag_xor (na nb : Bool) (ma mb : Nat) :
    signedMag (na ^^ nb) (ma * mb) = signedMag na ma * signedMag nb mb := by
  cases na <;> cases nb <;> simp [signedMag]

theorem signedMag_xor_div (na nb : Bool) (m n : Nat) :
    (signedMag (na ^^ nb) m : ℚ) / n = (signedMag na m : ℚ) / signedMag nb n := by
  cases na <;> cases nb <;> simp [signedMag, neg_div, div_neg]

theorem abs_signedMag (neg : Bool) (m : Nat) : |signedMag neg m| = m := by
  cases neg <;> simp [signedMag]

/-! ### The value of a float -/

theorem isNaN_of_isFinite {a : F32} (h : isFinite a) : isNaN a = false := by
  unfold isNaN
  exact decide_eq_false (Nat.lt_asymm h)

theorem view_of_isFinite {a : F32} (h : isFinite a) :
    view a = .fin a.msb (scaledMag (magBits a)) := by
  unfold view
  rw [isNaN_of_isFinite h, if_neg Bool.false_ne_true, if_neg (Nat.ne_of_lt h)]

theorem view_of_isNaN {a : F32} (h : isNaN a = true) : view a = .nan := by
  unfold view
  rw [if_pos h]

theorem isFinite_mkFloat (neg : Bool) {m : Nat} (h : m < infBits) : isFinite (mkFloat neg m) := by
  rwa [isFinite, magBits_mkFloat neg (Nat.lt_trans h (by decide))]

theorem floatValue_mkFloat (neg : Bool) {m : Nat} (h : m < infBits) :
    floatValue (mkFloat neg m) = (signedMag neg (scaledMag m) : ℚ) / 2 ^ 149 := by
  have h31 : m < 2 ^ 31 := Nat.lt_trans h (by decide)
  rw [floatValue, magBits_mkFloat neg h31, msb_mkFloat neg h31]

theorem abs_floatValue (a : F32) : |floatValue a| = (scaledMag (magBits a) : ℚ) / 2 ^ 149 := by
  rw [floatValue, abs_div, ← Int.cast_abs, abs_signedMag, Int.cast_natCast,
    abs_of_pos (by positivity : (0 : ℚ) < 2 ^ 149)]

theorem scaledMag_zero : scaledMag 0 = 0 := rfl

theorem floatValue_zero : floatValue 0#32 = 0 := by
  rw [floatValue, show magBits 0#32 = 0 from rfl, scaledMag_zero, signedMag_zero, Int.cast_zero,
    zero_div]

theorem floatValue_one : floatValue fOne = 1 := by
  have h1 : fOne.msb = false := rfl
  have h2 : magBits fOne = 0x3F800000 := rfl
  rw [floatValue, h1, h2, scaledMag_one]
  norm_num [signedMag]

theorem isFinite_fneg {a : F32} (h : isFinite a) : isFinite (fneg a) := by
  rwa [isFinite, magBits_fneg]

theorem floatValue_fneg (a : F32) : floatValue (fneg a) = -floatValue a := by
  rw [floatValue, floatValue, magBits_fneg, msb_fneg, signedMag_not, Int.cast_neg, neg_div]

/-! ### The order -/

/-- With the sign put before it, a magnitude pattern is still in the order of the values. -/
theorem signedMag_scaledMag_le_iff (na nb : Bool) (m n : Nat) :
    signedMag na (scaledMag m) ≤ signedMag nb (scaledMag n) ↔ signedMag na m ≤ signedMag nb n := by
  have hmn : scaledMag m ≤ scaledMag n ↔ m ≤ n := scaledMag_strictMono.le_iff_le
  have hnm : scaledMag n ≤ scaledMag m ↔ n ≤ m := scaledMag_strictMono.le_iff_le
  have hm : scaledMag m ≤ scaledMag 0 ↔ m ≤ 0 := scaledMag_strictMono.le_iff_le
  have hn : scaledMag n ≤ scaledMag 0 ↔ n ≤ 0 := scaledMag_strictMono.le_iff_le
  rw [scaledMag_zero] at hm hn
  cases na <;> cases nb <;> simp only [signedMag, Bool.false_eq_true, if_false, if_true] <;> omega

/-- The keys of the comparisons are in the order of the values (00_scope.md R17). -/
theorem floatKey_le_iff (a b : F32) : floatKey a ≤ floatKey b ↔ floatValue a ≤ floatValue b := by
  rw [floatValue, floatValue, div_le_div_iff_of_pos_right (by positivity), Int.cast_le,
    signedMag_scaledMag_le_iff]
  rfl

theorem fle_iff {a b : F32} (ha : isFinite a) (hb : isFinite b) :
    fle a b = true ↔ floatValue a ≤ floatValue b := by
  unfold fle
  rw [isNaN_of_isFinite ha, isNaN_of_isFinite hb]
  simpa using floatKey_le_iff a b

theorem flt_iff {a b : F32} (ha : isFinite a) (hb : isFinite b) :
    flt a b = true ↔ floatValue a < floatValue b := by
  unfold flt
  rw [isNaN_of_isFinite ha, isNaN_of_isFinite hb]
  simpa using (floatKey_le_iff b a).not

theorem floatKey_eq_iff (a b : F32) : floatKey a = floatKey b ↔ floatValue a = floatValue b := by
  rw [le_antisymm_iff, le_antisymm_iff, floatKey_le_iff, floatKey_le_iff]

theorem feq_iff {a b : F32} (ha : isFinite a) (hb : isFinite b) :
    feq a b = true ↔ floatValue a = floatValue b := by
  unfold feq
  rw [isNaN_of_isFinite ha, isNaN_of_isFinite hb]
  simpa using floatKey_eq_iff a b

end Sys2Proof.Machine

/-! Clamping and truncation on every pattern (00_scope.md R18, R19). -/

namespace Sys2Proof.Machine

open Sys2Proof

/-! ### The clamp -/

theorem isFinite_zero : isFinite 0#32 := by decide

theorem isFinite_one : isFinite fOne := by decide

/-- The clamp of a finite float by its value (00_scope.md R19). -/
theorem clamp01_of_isFinite {a : F32} (h : isFinite a) :
    clamp01 a = if floatValue a ≤ 0 then 0#32 else if 1 ≤ floatValue a then fOne else a := by
  have h0 : fle a 0#32 = true ↔ floatValue a ≤ 0 := by
    rw [fle_iff h isFinite_zero, floatValue_zero]
  have h1 : fle fOne a = true ↔ 1 ≤ floatValue a := by
    rw [fle_iff isFinite_one h, floatValue_one]
  unfold clamp01
  rw [isNaN_of_isFinite h, if_neg Bool.false_ne_true]
  simp only [h0, h1]

/-- Settles O30: the clamp of each kind of pattern. -/
theorem clampMapsEveryPattern : Obligations.ClampMapsEveryPattern := by
  refine ⟨fun a ha => if_pos ha, by decide, by decide, fun a ha => ?_⟩
  rw [clamp01_of_isFinite ha]
  refine ⟨fun h0 => if_pos h0, fun h1 => ?_, fun h0 h1 => ?_⟩
  · rw [if_neg (by linarith), if_pos h1]
    rfl
  · rw [if_neg h0.not_ge, if_neg h1.not_ge]

/-! ### Whole numbers -/

/-- The integer part of a value given in units of `2^-149`. -/
theorem floor_div_unit {z q : ℤ} (hlo : q * 2 ^ 149 ≤ z) (hhi : z < (q + 1) * 2 ^ 149) :
    ⌊(z : ℚ) / 2 ^ 149⌋ = q := by
  rw [Int.floor_eq_iff, le_div_iff₀ (by positivity), div_lt_iff₀ (by positivity)]
  constructor
  · exact_mod_cast hlo
  · exact_mod_cast hhi

/-- Toward zero and toward minus infinity are the same for a positive float. -/
theorem floor_floatValue_of_pos {a : F32} (h : a.msb = false) :
    ⌊floatValue a⌋ = (scaledMag (magBits a) / 2 ^ 149 : ℕ) := by
  rw [floatValue, h, signedMag_false]
  exact floor_div_unit (by omega) (by omega)

/-- The integer part of a negative float is the negative of its magnitude rounded up. -/
theorem floor_floatValue_of_neg {a : F32} (h : a.msb = true) :
    ⌊floatValue a⌋ = -((scaledMag (magBits a) + (2 ^ 149 - 1)) / 2 ^ 149 : ℕ) := by
  rw [floatValue, h, signedMag_true]
  exact floor_div_unit (by omega) (by omega)

/-- The conversion of a finite float to a word: its integer part, saturated (00_scope.md R18). -/
theorem f2i_toNat_of_isFinite {a : F32} (h : isFinite a) :
    (f2i a).toNat = min ⌊floatValue a⌋.toNat (2 ^ 32 - 1) := by
  unfold f2i
  rw [view_of_isFinite h]
  cases hs : a.msb with
  | false =>
    simp only [Bool.false_eq_true, if_false, floor_floatValue_of_pos hs, Int.toNat_natCast,
      BitVec.toNat_ofNat]
    exact Nat.mod_eq_of_lt (by omega)
  | true =>
    rw [floor_floatValue_of_neg hs, Int.toNat_of_nonpos (by omega)]
    rfl

/-- Settles O29: a finite float by its integer part, the other patterns one by one. -/
theorem floatToIntTruncates : Obligations.FloatToIntTruncates := by
  refine ⟨fun a ha => ?_, by decide, by decide, fun a ha => ?_⟩
  · unfold f2i
    rw [view_of_isNaN ha]
  have hf := f2i_toNat_of_isFinite ha
  refine ⟨fun h0 => ?_, fun hmax => ?_, fun h0 hlt => ?_⟩
  · have hfloor : ⌊floatValue a⌋ ≤ 0 := Int.floor_nonpos h0
    apply BitVec.eq_of_toNat_eq
    rw [hf, Int.toNat_of_nonpos hfloor]
    rfl
  · have hfloor : 4294967296 ≤ ⌊floatValue a⌋ := Int.le_floor.2 (by exact_mod_cast hmax)
    apply BitVec.eq_of_toNat_eq
    rw [hf, min_eq_right (by omega)]
    rfl
  · have hnonneg : 0 ≤ ⌊floatValue a⌋ := Int.floor_nonneg.2 h0.le
    have hfloor : ⌊floatValue a⌋ < 4294967296 := Int.floor_lt.2 (by exact_mod_cast hlt)
    rw [hf, min_eq_left (by omega), Int.toNat_of_nonneg hnonneg]

/-- A finite magnitude is a whole number, or too small to have a place above `2^0` to spare. -/
theorem scaledMag_dvd_or_lt (M : Nat) :
    2 ^ 149 ∣ scaledMag M ∨ scaledMag M < 2 ^ 24 * 2 ^ 149 := by
  unfold scaledMag
  split
  · right; omega
  · generalize M / 2 ^ 23 - 1 = k
    have ht : 2 ^ 23 + M % 2 ^ 23 < 2 ^ 24 := by omega
    rcases Nat.le_total 149 k with hk | hk
    · left
      exact (pow_dvd_pow 2 hk).mul_left _
    · right
      exact Nat.mul_lt_mul_of_lt_of_le ht (Nat.pow_le_pow_right (by decide) hk) (by positivity)

/-- A significand of up to 24 bits, or one more, at a place is the value of a pattern: it is
doubled until the place is the lowest or the significand is normal. -/
theorem exists_scaledMag_eq (k t : Nat) (ht : t ≤ 2 ^ 24) :
    ∃ M ≤ k * 2 ^ 23 + 2 ^ 24, scaledMag M = t * 2 ^ k := by
  induction k generalizing t with
  | zero => exact ⟨0 * 2 ^ 23 + t, by omega, scaledMag_place 0 t (.inl rfl) ht⟩
  | succ k ih =>
    by_cases hnormal : 2 ^ 23 ≤ t
    · exact ⟨(k + 1) * 2 ^ 23 + t, by omega, scaledMag_place (k + 1) t (.inr hnormal) ht⟩
    · obtain ⟨M, hM, hv⟩ := ih (2 * t) (by omega)
      refine ⟨M, hM.trans (by omega), ?_⟩
      rw [hv, pow_succ]
      ring

/-- Whole numbers up to `2^24` are floats. -/
theorem exists_finite_scaledMag_eq {q : Nat} (hq : q ≤ 2 ^ 24) :
    ∃ M < infBits, scaledMag M = q * 2 ^ 149 := by
  obtain ⟨M, hM, hv⟩ := exists_scaledMag_eq 149 q hq
  exact ⟨M, by unfold infBits; omega, hv⟩

/-- Both whole numbers next to a finite magnitude are finite magnitudes. -/
theorem exists_scaledMag_eq_whole {M q : Nat} (hM : M < infBits)
    (hq : q = scaledMag M / 2 ^ 149 ∨ q = (scaledMag M + (2 ^ 149 - 1)) / 2 ^ 149) :
    ∃ M' < infBits, scaledMag M' = q * 2 ^ 149 := by
  rcases scaledMag_dvd_or_lt M with ⟨c, hc⟩ | hlt
  · exact ⟨M, hM, by omega⟩
  · exact exists_finite_scaledMag_eq (by omega)

/-- A whole number that is a float is not rounded. -/
theorem floatValue_mkFloat_roundMag_whole (neg : Bool) {q : Nat}
    (h : ∃ M < infBits, scaledMag M = q * 2 ^ 149) :
    isFinite (mkFloat neg (roundMag (q * 2 ^ 149) 1)) ∧
      floatValue (mkFloat neg (roundMag (q * 2 ^ 149) 1)) = (signedMag neg q : ℚ) := by
  obtain ⟨M, hM, hv⟩ := h
  have hround : roundMag (q * 2 ^ 149) 1 = M := by
    rw [← hv]
    simpa using roundMag_exact M 1 Nat.one_pos hM.le
  rw [hround]
  refine ⟨isFinite_mkFloat neg hM, ?_⟩
  rw [floatValue_mkFloat neg hM, hv, signedMag_mul, Nat.cast_pow, Nat.cast_ofNat, Int.cast_mul,
    Int.cast_pow, Int.cast_ofNat]
  exact mul_div_cancel_right₀ _ (by positivity)

theorem ffloor_of_isFinite {a : F32} (h : isFinite a) :
    isFinite (ffloor a) ∧ floatValue (ffloor a) = (⌊floatValue a⌋ : ℚ) := by
  unfold ffloor
  rw [view_of_isFinite h]
  cases hs : a.msb with
  | false =>
    rw [floor_floatValue_of_pos hs, ← signedMag_false]
    exact floatValue_mkFloat_roundMag_whole false (exists_scaledMag_eq_whole h (.inl rfl))
  | true =>
    rw [floor_floatValue_of_neg hs, ← signedMag_true]
    exact floatValue_mkFloat_roundMag_whole true (exists_scaledMag_eq_whole h (.inr rfl))

theorem i2f_of_lt {n : Nat} (h : n < 2 ^ 24) :
    isFinite (i2f n) ∧ floatValue (i2f n) = (n : ℚ) :=
  floatValue_mkFloat_roundMag_whole false (exists_finite_scaledMag_eq h.le)

/-! ### The other helpers -/

theorem fabs_toNat (a : F32) : (fabs a).toNat = a.toNat % 2 ^ 31 := by
  unfold fabs
  rw [BitVec.toNat_and]
  exact Nat.and_two_pow_sub_one_eq_mod a.toNat 31

theorem fmin_of_isFinite {a b : F32} (ha : isFinite a) (hb : isFinite b) :
    fmin a b = if floatValue a ≤ floatValue b then a else b := by
  unfold fmin
  rw [isNaN_of_isFinite ha, isNaN_of_isFinite hb, Bool.or_self, if_neg Bool.false_ne_true]
  simp only [fle_iff ha hb]

theorem fmax_of_isFinite {a b : F32} (ha : isFinite a) (hb : isFinite b) :
    fmax a b = if floatValue b ≤ floatValue a then a else b := by
  unfold fmax
  rw [isNaN_of_isFinite ha, isNaN_of_isFinite hb, Bool.or_self, if_neg Bool.false_ne_true]
  simp only [fle_iff hb ha]

/-- Nothing compares with a NaN (00_scope.md R17). -/
theorem comparisons_of_isNaN {a b : F32} (h : isNaN a = true ∨ isNaN b = true) :
    flt a b = false ∧ fle a b = false ∧ feq a b = false := by
  have hno : (!isNaN a && !isNaN b) = false := by
    rcases h with h | h <;> simp [h]
  unfold flt fle feq
  rw [hno]
  exact ⟨rfl, rfl, rfl⟩

/-- Settles O28, helper by helper. -/
theorem floatHelpersAreExact : Obligations.FloatHelpersAreExact :=
  ⟨fun _ ha => ffloor_of_isFinite ha, fabs_toNat, fun _ hn => i2f_of_lt hn,
    fun _ _ ha hb => ⟨fmin_of_isFinite ha hb, fmax_of_isFinite ha hb, flt_iff ha hb, fle_iff ha hb,
      feq_iff ha hb⟩,
    fun _ _ h => comparisons_of_isNaN h⟩

end Sys2Proof.Machine

/-! The four float operations round their exact result to the nearest float, ties to even
(00_scope.md R16). -/

namespace Sys2Proof.Machine

open Sys2Proof

/-! ### Ties -/

/-- Two different magnitudes equally near to `n / d` have it in their middle. -/
theorem add_eq_of_tie {n d M R : Nat} (hd : 0 < d) (hne : M ≠ R)
    (htie : |(scaledMag M * d : Int) - n| = |(scaledMag R * d : Int) - n|) :
    scaledMag M * d + scaledMag R * d = 2 * n := by
  rcases abs_eq_abs.1 htie with h | h
  · have hsame : (scaledMag M * d : Int) = scaledMag R * d := by linarith
    have hsame : scaledMag M * d = scaledMag R * d := by exact_mod_cast hsame
    exact absurd (scaledMag_strictMono.injective (Nat.eq_of_mul_eq_mul_right hd hsame)) hne
  · have hsum : (scaledMag M * d : Int) + scaledMag R * d = 2 * n := by linarith
    exact_mod_cast hsum

/-- Where another magnitude is as near as the rounded one, the rounded pattern is even. -/
theorem roundUnbounded_even_of_tie {n d M : Nat} (hd : 0 < d) (hne : M ≠ roundUnbounded n d)
    (htie : |(scaledMag M * d : Int) - n| = |(scaledMag (roundUnbounded n d) * d : Int) - n|) :
    roundUnbounded n d % 2 = 0 := by
  have hmid := add_eq_of_tie hd hne htie
  obtain ⟨k, m, hk, hm, hlo, hhi, hr⟩ := roundUnbounded_spec n d hd
  have hbelow : scaledMag (k * 2 ^ 23 + m) * d = m * (d * 2 ^ k) := by
    rw [scaledMag_place k m hk (by omega)]; ring
  have habove : scaledMag (k * 2 ^ 23 + m + 1) * d = (m + 1) * (d * 2 ^ k) := by
    rw [Nat.add_assoc, scaledMag_place k (m + 1) (by omega) (by omega)]; ring
  have hmono {p q : Nat} (h : p ≤ q) : scaledMag p * d ≤ scaledMag q * d :=
    Nat.mul_le_mul_right d (scaledMag_strictMono.monotone h)
  have hstrict {p q : Nat} (h : p < q) : scaledMag p * d < scaledMag q * d :=
    Nat.mul_lt_mul_of_pos_right (scaledMag_strictMono h) hd
  have hmiddle : (2 * m + 1) * (d * 2 ^ k) = 2 * (m * (d * 2 ^ k)) + d * 2 ^ k := by ring
  rw [Nat.add_one_mul] at hhi habove
  rw [hmiddle] at hr
  generalize d * 2 ^ k = D at *
  generalize m * D = P at *
  split at hr
  case isTrue hup =>
    rw [hr] at hmid hne ⊢
    rcases Nat.lt_or_gt_of_ne hne with hM | hM
    · have := hmono (Nat.le_of_lt_succ hM)
      omega
    · have := hmono hM.le
      omega
  case isFalse hdown =>
    rw [hr, Nat.add_zero] at hmid hne ⊢
    rcases Nat.lt_or_gt_of_ne hne with hM | hM
    · have := hstrict hM
      omega
    · have := hmono (show k * 2 ^ 23 + m + 1 ≤ M from hM)
      omega

/-! ### Rounding with a sign -/

/-- How far the magnitude of a float is from a magnitude `n / d` in units of `2^-149`. -/
theorem abs_abs_floatValue_sub (c : F32) (n : Nat) {d : Nat} (hd : 0 < d) :
    |(|floatValue c| - (n : ℚ) / (d * 2 ^ 149))| =
      (|(scaledMag (magBits c) * d : Int) - n| : Int) / ((d : ℚ) * 2 ^ 149) := by
  have hd' : (0 : ℚ) < d := by exact_mod_cast hd
  have hpos : (0 : ℚ) < d * 2 ^ 149 := by positivity
  rw [eq_div_iff hpos.ne', ← abs_of_pos hpos, ← abs_mul, abs_of_pos hpos, abs_floatValue,
    sub_mul, div_mul_cancel₀ _ hpos.ne', mul_comm (d : ℚ), ← mul_assoc,
    div_mul_cancel₀ _ (by positivity)]
  push_cast
  rfl

/-- The value of pattern `0x477FFF00` is 65535. -/
theorem scaledMag_65535 : scaledMag 0x477FFF00 = 65535 * 2 ^ 149 := by
  have h := scaledMag_place 141 0xFFFF00 (.inr (by decide)) (by decide)
  rw [show 0x477FFF00 = 141 * 2 ^ 23 + 0xFFFF00 by decide, h]
  norm_num

/-- A magnitude up to 65535 does not overflow (00_scope.md R21). -/
theorem roundMag_of_le_65535 {n d : Nat} (hd : 0 < d) (h : n ≤ 65535 * 2 ^ 149 * d) :
    roundMag n d < infBits ∧ roundMag n d = roundUnbounded n d := by
  have hle := roundMag_le n d 0x477FFF00 hd (scaledMag_65535 ▸ h)
  unfold roundMag infBits at *
  omega

/-- Two numbers of one sign are as far apart as their magnitudes. -/
theorem abs_signedMag_div_sub (neg : Bool) (m n : Nat) {e f : ℚ} (he : 0 < e) (hf : 0 < f) :
    |(signedMag neg m : ℚ) / e - (signedMag neg n : ℚ) / f| =
      |(|(signedMag neg m : ℚ) / e| - |(signedMag neg n : ℚ) / f|)| := by
  have hm : (0 : ℚ) ≤ (m : ℚ) / e := by positivity
  have hn : (0 : ℚ) ≤ (n : ℚ) / f := by positivity
  cases neg with
  | false =>
    rw [signedMag_false, signedMag_false, Int.cast_natCast, Int.cast_natCast, abs_of_nonneg hm,
      abs_of_nonneg hn]
  | true =>
    rw [signedMag_true, signedMag_true, Int.cast_neg, Int.cast_neg, Int.cast_natCast,
      Int.cast_natCast, neg_div, neg_div, abs_neg, abs_neg, abs_of_nonneg hm, abs_of_nonneg hn,
      neg_sub_neg, abs_sub_comm]

/-- A number as far from another as from its negative is 0. -/
theorem eq_zero_of_abs_sub_eq {c r x : ℚ} (hne : c ≠ r) (habs : |c| = |r|)
    (htie : |c - x| = |r - x|) : x = 0 := by
  have hneg : c = -r := (abs_eq_abs.1 habs).resolve_left hne
  rcases abs_eq_abs.1 htie with h | h
  · exact absurd (sub_left_inj.1 h) hne
  · linarith

/-- A float on the same side of 0 as `x`, whose magnitude is that of `x` rounded, is the nearest
one, ties to even: no float of the other sign is nearer. -/
theorem isNearest_of_magBits {r : F32} {n d : Nat} {x : ℚ} (hd : 0 < d) (hfin : isFinite r)
    (hmag : magBits r = roundUnbounded n d) (habs : |x| = (n : ℚ) / (d * 2 ^ 149))
    (hsign : |floatValue r - x| = |(|floatValue r| - |x|)|) : isNearest r x := by
  have hd' : (0 : ℚ) < d := by exact_mod_cast hd
  have hpos : (0 : ℚ) < d * 2 ^ 149 := by positivity
  have hdist (c : F32) : |(|floatValue c| - |x|)| =
      (|(scaledMag (magBits c) * d : Int) - n| : Int) / (d * 2 ^ 149) :=
    habs ▸ abs_abs_floatValue_sub c n hd
  have hnear (c : F32) : |(|floatValue r| - |x|)| ≤ |(|floatValue c| - |x|)| := by
    rw [hdist, hdist, div_le_div_iff_of_pos_right hpos, Int.cast_le, hmag]
    exact roundUnbounded_nearest n d _ hd
  refine ⟨hfin, fun c _ => ?_, fun c _ htie hne => ?_⟩
  · rw [hsign]
    exact (hnear c).trans (abs_abs_sub_abs_le _ _)
  · rw [hmag]
    by_cases hM : magBits c = roundUnbounded n d
    · have habs' : |floatValue c| = |floatValue r| := by
        rw [abs_floatValue, abs_floatValue, hM, hmag]
      have hn : n = 0 := by
        rw [eq_zero_of_abs_sub_eq hne habs' htie, abs_zero, eq_comm, div_eq_zero_iff,
          or_iff_left hpos.ne', Nat.cast_eq_zero] at habs
        exact habs
      have hround := roundUnbounded_exact 0 d hd
      rw [scaledMag_zero, zero_mul] at hround
      rw [hn, hround]
    · have hle : |(|floatValue c| - |x|)| ≤ |(|floatValue r| - |x|)| :=
        (abs_abs_sub_abs_le _ _).trans (htie.trans hsign).le
      have hsame := hle.antisymm (hnear c)
      rw [hdist, hdist, div_left_inj' hpos.ne', Int.cast_inj, hmag] at hsame
      exact roundUnbounded_even_of_tie hd hM hsame

/-- Rounding the magnitude and keeping the sign gives the nearest float, ties to even. -/
theorem isNearest_mkFloat_roundMag {neg : Bool} {n d : Nat} {x : ℚ} (hd : 0 < d)
    (hx : x = (signedMag neg n : ℚ) / (d * 2 ^ 149)) (hb : |x| ≤ 65535) :
    isNearest (mkFloat neg (roundMag n d)) x := by
  have hd' : (0 : ℚ) < d := by exact_mod_cast hd
  have hpos : (0 : ℚ) < d * 2 ^ 149 := by positivity
  have habs : |x| = (n : ℚ) / (d * 2 ^ 149) := by
    rw [hx, abs_div, ← Int.cast_abs, abs_signedMag, abs_of_pos hpos, Int.cast_natCast]
  have hn : n ≤ 65535 * 2 ^ 149 * d := by
    rw [habs, div_le_iff₀ hpos] at hb
    have hb : (n : ℚ) ≤ 65535 * 2 ^ 149 * d := by linarith
    exact_mod_cast hb
  obtain ⟨hlt, hround⟩ := roundMag_of_le_65535 hd hn
  refine isNearest_of_magBits hd (isFinite_mkFloat neg hlt) ?_ habs ?_
  · rw [magBits_mkFloat neg (Nat.lt_trans hlt (by decide)), hround]
  · rw [floatValue_mkFloat neg hlt, hx]
    exact abs_signedMag_div_sub neg _ n (by positivity) hpos

/-! ### The operations -/

/-- A finite sum is rounded with the sign of the exact sum. -/
theorem addFinite_eq_mkFloat (na : Bool) (ma : Nat) (nb : Bool) (mb : Nat) :
    ∃ (neg : Bool) (n : Nat), addFinite na ma nb mb = mkFloat neg (roundMag n 1) ∧
      signedMag neg n = signedMag na ma + signedMag nb mb := by
  unfold addFinite
  generalize signedMag na ma + signedMag nb mb = z
  by_cases hz : z = 0
  · exact ⟨na && nb, 0, by simp only [hz, if_true, roundMag_zero 1 Nat.one_pos],
      by rw [signedMag_zero, hz]⟩
  · refine ⟨decide (z < 0), z.natAbs, by simp only [hz, if_false], ?_⟩
    by_cases hneg : z < 0
    · rw [decide_eq_true hneg, signedMag_true]
      omega
    · rw [decide_eq_false hneg, signedMag_false]
      omega

theorem fadd_isNearest {a b : F32} (ha : isFinite a) (hb : isFinite b)
    (h : |floatValue a + floatValue b| ≤ 65535) :
    isNearest (fadd a b) (floatValue a + floatValue b) := by
  obtain ⟨neg, n, heq, hsum⟩ :=
    addFinite_eq_mkFloat a.msb (scaledMag (magBits a)) b.msb (scaledMag (magBits b))
  have hf : fadd a b = mkFloat neg (roundMag n 1) := by
    unfold fadd
    rw [view_of_isFinite ha, view_of_isFinite hb]
    exact heq
  rw [hf]
  refine isNearest_mkFloat_roundMag Nat.one_pos ?_ h
  rw [hsum, floatValue, floatValue, Int.cast_add, Nat.cast_one, one_mul, add_div]

theorem fsub_isNearest {a b : F32} (ha : isFinite a) (hb : isFinite b)
    (h : |floatValue a - floatValue b| ≤ 65535) :
    isNearest (fsub a b) (floatValue a - floatValue b) := by
  rw [sub_eq_add_neg, ← floatValue_fneg] at h ⊢
  exact fadd_isNearest ha (isFinite_fneg hb) h

theorem fmul_isNearest {a b : F32} (ha : isFinite a) (hb : isFinite b)
    (h : |floatValue a * floatValue b| ≤ 65535) :
    isNearest (fmul a b) (floatValue a * floatValue b) := by
  have hf : fmul a b = mkFloat (a.msb ^^ b.msb)
      (roundMag (scaledMag (magBits a) * scaledMag (magBits b)) (2 ^ 149)) := by
    unfold fmul
    rw [view_of_isFinite ha, view_of_isFinite hb]
  rw [hf]
  refine isNearest_mkFloat_roundMag (by positivity) ?_ h
  rw [signedMag_xor, floatValue, floatValue, Int.cast_mul, Nat.cast_pow, Nat.cast_ofNat,
    div_mul_div_comm]

theorem fdiv_isNearest {a b : F32} (ha : isFinite a) (hb : isFinite b) (hb0 : floatValue b ≠ 0)
    (h : |floatValue a / floatValue b| ≤ 65535) :
    isNearest (fdiv a b) (floatValue a / floatValue b) := by
  have hmb : scaledMag (magBits b) ≠ 0 := by
    intro h0
    rw [floatValue, h0, signedMag_zero, Int.cast_zero, zero_div] at hb0
    exact hb0 rfl
  have hf : fdiv a b = mkFloat (a.msb ^^ b.msb)
      (roundMag (scaledMag (magBits a) * 2 ^ 149) (scaledMag (magBits b))) := by
    unfold fdiv
    rw [view_of_isFinite ha, view_of_isFinite hb]
    exact if_neg hmb
  rw [hf]
  refine isNearest_mkFloat_roundMag (Nat.pos_of_ne_zero hmb) ?_ h
  have hu : (2 ^ 149 : ℚ) ≠ 0 := by positivity
  rw [floatValue, floatValue, div_div_div_cancel_right₀ hu, signedMag_mul, Nat.cast_pow,
    Nat.cast_ofNat, Int.cast_mul, Int.cast_pow, Int.cast_ofNat, mul_div_mul_right _ _ hu,
    signedMag_xor_div]

/-- Settles O27, operation by operation. -/
theorem floatOperationsRoundToNearest : Obligations.FloatOperationsRoundToNearest :=
  fun _ _ ha hb =>
    ⟨fadd_isNearest ha hb, fsub_isNearest ha hb, fmul_isNearest ha hb, fdiv_isNearest ha hb⟩

end Sys2Proof.Machine

/-! What one step can be: the block waits, runs a command, takes an illegal command word, or serves
another event (20_memory.md R79, R82). -/

namespace Sys2Proof.Machine

open Sys2Proof

/-- A write of `CMD` runs the command that the word spells, or is illegal. -/
theorem runCommand_cases {w : Word} {s t : State} (h : runCommand w s = .next t) :
    (∃ i, decode w = .ok i ∧ exec i s = .next t) ∨ t = illegalCommand s := by
  unfold runCommand at h
  split at h
  · next i hi => exact .inl ⟨i, hi, h⟩
  · cases h; exact .inr rfl

theorem step_commandWord {s : State} {e : Event} {rest : List Event} {w : Word}
    (hp : s.pending = e :: rest) (hw : commandWord e = some w) :
    step s = runCommand w ((s.setPending rest).setAnswer none) := by
  simp only [step, hp, hw]

/-- Every step waits, writes `CMD`, or serves an event that is no write of `CMD`. -/
theorem step_cases {s t : State} (h : step s = .next t) :
    (s.pending = [] ∧ t = s) ∨
    (∃ e rest w, s.pending = e :: rest ∧ commandWord e = some w ∧
      runCommand w ((s.setPending rest).setAnswer none) = .next t) ∨
    ∃ e rest, s.pending = e :: rest ∧ commandWord e = none ∧
      t = serve (s.setPending rest) e := by
  unfold step at h
  split at h
  · next hp => cases h; exact .inl ⟨hp, rfl⟩
  · next e rest hp =>
    split at h
    · next w hw => exact .inr (.inl ⟨e, rest, w, hp, hw, h⟩)
    · next hw => cases h; exact .inr (.inr ⟨e, rest, hp, hw, rfl⟩)

/-- Settles O6: both writes have the word as their command word, and the word decodes. -/
theorem stepRunsDecodedCommand : Obligations.StepRunsDecodedCommand := by
  intro s w rest i hi
  have hrun (t : State) : runCommand w t = exec i t := by simp only [runCommand, hi]
  exact ⟨fun hp => (step_commandWord hp rfl).trans (hrun _),
    fun hp => (step_commandWord hp rfl).trans (hrun _)⟩

end Sys2Proof.Machine

/-! The invariant of the machine: one rule for each update of the state, then the operations built
from them, the commands, the host accesses and the step. -/

namespace Sys2Proof.Machine

open Sys2Proof

/-- Nothing listed is in canonical form, and every cell of it is in range. -/
theorem Memory.nil_ok {α : Type} [DecidableEq α] (d : α) (P : Nat × α → Prop) :
    Memory.wf d ([] : Memory α) ∧ ∀ x ∈ ([] : Memory α), P x :=
  ⟨Memory.wf_nil d, fun _ hx => absurd hx List.not_mem_nil⟩

/-! ### The updates of the state -/

section updates

variable {s : State} (h : s.Inv)
include h

theorem State.Inv.setStatus (v : Status) : (s.setStatus v).Inv := { h with }

theorem State.Inv.setXr (v : Word) : (s.setXr v).Inv := { h with }

theorem State.Inv.setSeed (lo hi : Word) : (s.setSeed lo hi).Inv := { h with }

theorem State.Inv.setPending (es : List Event) : (s.setPending es).Inv := { h with }

theorem State.Inv.setAnswer (v : Option Word) : (s.setAnswer v).Inv := { h with }

theorem State.Inv.setR {v : Hsv} (hv : v.InUnit) : (s.setR v).Inv := { h with r := hv }

theorem State.Inv.setPix {v : Pixel} (hv : v.Fits s.cfg) : (s.setPix v).Inv :=
  { h with pix := hv }

theorem State.Inv.setDuty {v : Pixel} (hv : v.Fits s.cfg) : (s.setDuty v).Inv :=
  { h with duty := hv }

theorem State.Inv.setRndF {v : F32} (hv : inUnit v) : (s.setRndF v).Inv := { h with rndF := hv }

theorem State.Inv.setAct {m : Message} (hs : m.startC.InUnit) (he : m.endC.InUnit) :
    (s.setAct m).Inv := { h with actStart := hs, actEnd := he }

theorem State.Inv.setRenderer {len : BitVec 11} {proto : Proto}
    (hlen : len.toNat ≤ Config.pixMax) (hpwm : proto = .pwm → len.toNat ≤ 1) :
    (s.setRenderer len proto).Inv := { h with len := hlen, lenPwm := hpwm }

theorem State.Inv.setFb {m : Memory Elem} (hm : elemsOk s.cfg s.cfg.fbCap m) :
    (s.setFb m).Inv := { h with fb := hm }

theorem State.Inv.setGamma {m : Memory Elem} (hm : elemsOk s.cfg (s.cfg.chMax + 1) m) :
    (s.setGamma m).Inv := { h with gamma := hm }

theorem State.Inv.setMsgbuf {m : Memory Byte}
    (hm : Memory.wf emptyByte m ∧ ∀ x ∈ m, x.1 < Config.msgLen) : (s.setMsgbuf m).Inv :=
  { h with msgbuf := hm }

/-- A new number of sprites in use, all of which fit. -/
theorem State.Inv.setNspr {n : BitVec 11} (hn : n.toNat ≤ Config.nMax)
    (hbank : ∀ k, k < n.toNat → (readSprite s k).Fits) : (s.setNspr n).Inv :=
  { h with nspr := hn, bank := hbank }

/-! ### The memories -/

theorem State.Inv.writeFb (j : Nat) (v : Elem) : (writeFb s j v).Inv := by
  rw [writeFb_frame]
  exact h.setFb (writeFb_elemsOk s j v h.fb)

theorem State.Inv.writeGamma (j : Nat) (v : Elem) : (writeGamma s j v).Inv := by
  unfold Machine.writeGamma
  split
  · next hj =>
    refine h.setGamma ⟨Memory.wf_write _ _ _ h.gamma.1, fun x hx => ?_⟩
    rcases Memory.mem_write _ _ _ hx with rfl | hx
    · exact ⟨Nat.lt_succ_of_le hj, elemCW_toNat _ _⟩
    · exact h.gamma.2 x hx
  · exact h

theorem State.Inv.writeMsg (i : Nat) (v : Byte) : (writeMsg s i v).Inv := by
  unfold Machine.writeMsg
  split
  · next hi =>
    refine h.setMsgbuf ⟨Memory.wf_write _ _ _ h.msgbuf.1, fun x hx => ?_⟩
    rcases Memory.mem_write _ _ _ hx with rfl | hx
    · exact hi
    · exact h.msgbuf.2 x hx
  · exact h

theorem State.Inv.writeSprite (k : Nat) {v : Sprite} (hv : v.Fits) : (writeSprite s k v).Inv := by
  have hread (i : Nat) := readSprite_writeSprite s k v i h.spr.1
  have hspr := writeSprite_ok s k v h.spr
  rw [writeSprite_frame] at hread ⊢
  refine { h with spr := hspr, bank := fun i hi => ?_ }
  rw [hread]
  split
  · exact hv
  · exact h.bank i hi

end updates

/-! ### Pixels -/

theorem Pixel.zero_fits (c : Config) : Pixel.zero.Fits c :=
  ⟨Nat.zero_le _, Nat.zero_le _, Nat.zero_le _⟩

theorem Hsv.zero_inUnit : Hsv.zero.InUnit := ⟨inUnit_zero, inUnit_zero, inUnit_zero⟩

theorem State.Inv.putPixel {s : State} (h : s.Inv) (i : Nat) {p : Pixel} (hp : p.Fits s.cfg) :
    (putPixel i p s).Inv := by
  unfold Machine.putPixel
  split
  · exact h
  · split
    · exact (((h.writeFb _ _).writeFb _ _).writeFb _ _).writeFb _ _
    · exact ((h.writeFb _ _).writeFb _ _).writeFb _ _
    · exact h.setDuty hp

theorem State.Inv.renderPixel {s : State} (h : s.Inv) (i : Nat) (c1 c2 : Hsv) (x : F32) :
    (renderPixel i c1 c2 x s).Inv :=
  h.putPixel i (conv_fits s _ h.gamma)

/-- A loop keeps the invariant if its passes do. -/
theorem State.Inv.forBelow {s : State} (h : s.Inv) {n : Nat} {body : Nat → State → State}
    (hbody : ∀ i (t : State), t.Inv → (body i t).Inv) : (forBelow n body s).Inv :=
  forBelow_induction (P := State.Inv) h fun i t _ ht => hbody i t ht

theorem State.Inv.allOff {s : State} (h : s.Inv) : (allOff s).Inv :=
  h.forBelow fun i _ ht => ht.putPixel i (Pixel.zero_fits _)

theorem State.Inv.fillGradient {s : State} (h : s.Inv) (c d : Hsv) : (fillGradient c d s).Inv :=
  h.forBelow fun i _ ht => ht.renderPixel i _ _ _

theorem State.Inv.fillGradientDual {s : State} (h : s.Inv) (c d : Hsv) :
    (fillGradientDual c d s).Inv :=
  h.forBelow fun i _ ht => ht.renderPixel i _ _ _

theorem State.Inv.fillTriangle {s : State} (h : s.Inv) (c d : Hsv) (phase : F32) :
    (fillTriangle c d phase s).Inv :=
  h.forBelow fun i _ ht => ht.renderPixel i _ _ _

theorem State.Inv.fillRandom {s : State} (h : s.Inv) (c d : Hsv) : (fillRandom c d s).Inv :=
  h.forBelow fun i _ ht => ht.renderPixel i _ _ _

/-! ### The construction of a renderer -/

theorem State.Inv.writeFraming {s : State} (h : s.Inv) (proto : Proto) (len : Nat) :
    (writeFraming proto len s).Inv := by
  cases proto with
  | clocked =>
    have hheader : (writeHeader s).Inv := h.forBelow fun _ _ ht => ht.writeFb _ _
    have hbright : (writeBrightness len (writeHeader s)).Inv :=
      hheader.forBelow fun _ _ ht => ht.writeFb _ _
    exact hbright.forBelow fun _ _ ht => ht.writeFb _ _
  | single => exact h
  | pwm => exact h

theorem renderLength_le (len : BitVec 11) (proto : Proto) :
    renderLength len proto ≤ Config.pixMax := by
  cases proto with
  | clocked => exact countOperand_le _ _
  | single => exact countOperand_le _ _
  | pwm => exact (min_le_left _ _).trans (countOperand_le _ _)

/-- A count of pixels or sprites fits its register. -/
theorem ofNat_count_toNat {n : Nat} (h : n ≤ Config.pixMax) : (BitVec.ofNat 11 n).toNat = n := by
  rw [BitVec.toNat_ofNat]
  unfold Config.pixMax at h
  omega

theorem State.Inv.constructRenderer {s : State} (h : s.Inv) (len : BitVec 11) (proto : Proto) :
    (constructRenderer len proto s).Inv := by
  have hlen := renderLength_le len proto
  have hclear : (clearFb s).Inv := h.setFb (Memory.nil_ok _ _)
  have hframe := (hclear.setDuty (Pixel.zero_fits _)).writeFraming proto (renderLength len proto)
  refine (hframe.setRenderer ?_ fun hpwm => ?_).setStatus _
  · rwa [ofNat_count_toNat hlen]
  · rw [ofNat_count_toNat hlen, hpwm]
    exact min_le_right _ _

/-! ### Sprites -/

/-- Drifting down never leaves the range: a step beyond 0 stops at the target. -/
theorem drift_down_inUnit {value target step : F32} (hv : inUnit value) (ht : inUnit target)
    (hs : inUnit step) : inUnit (fmax (fsub value step) target) := by
  rcases Nat.lt_or_ge value.toNat step.toNat with hlt | hle
  · have hmag : 1 ≤ scaledMag step.toNat - scaledMag value.toNat := by
      have := scaledMag_strictMono hlt
      omega
    have hpos := le_roundMag (scaledMag step.toNat - scaledMag value.toNat) 1 1 Nat.one_pos
      (by decide) (by simpa [show scaledMag 1 = 1 from rfl] using hmag)
    have hlt_inf : roundMag (scaledMag step.toNat - scaledMag value.toNat) 1 < infBits :=
      (roundMag_le _ 1 step.toNat Nat.one_pos (by omega)).trans_lt hs.lt_inf
    rw [fsub_neg hv.lt_inf hs.lt_inf hlt, fmax_neg hlt_inf ht.le_inf hpos]
    exact ht
  · have hsub : inUnit (fsub value step) := (fsub_unit_le hv hs hle).trans hv
    rw [inUnit, fmax_of_le hsub.le_inf ht.le_inf]
    exact max_le hsub ht

/-- Drifting up never leaves the range: the target is in it. -/
theorem drift_up_inUnit {value target step : F32} (hv : inUnit value) (ht : inUnit target)
    (hs : inUnit step) : inUnit (fmin (fadd value step) target) := by
  rw [inUnit, fmin_of_le (fadd_unit_ge hv hs).2 ht.le_inf]
  exact (min_le_right _ _).trans ht

theorem State.Inv.genNext {s : State} (h : s.Inv) : (genNext s).Inv := h.setSeed _ _

theorem State.Inv.initSprite {s : State} (h : s.Inv) (k : Nat) : (initSprite k s).Inv :=
  h.genNext.genNext.genNext.writeSprite k (newSprite_fits s h.vscale h.sscale)

theorem readSprite_setSeed (s : State) (lo hi : Word) (k : Nat) :
    readSprite (s.setSeed lo hi) k = readSprite s k := rfl

theorem readSprite_genNext (s : State) (k : Nat) : readSprite (genNext s) k = readSprite s k :=
  readSprite_setSeed s _ _ k

/-- The construction of a sprite, sprite by sprite. -/
theorem readSprite_initSprite {s : State} (h : s.Inv) (k i : Nat) :
    readSprite (initSprite k s) i =
      if i = k ∧ k < Config.nMax then newSprite s else readSprite s i := by
  unfold initSprite
  rw [readSprite_writeSprite _ _ _ _ h.genNext.genNext.genNext.spr.1, readSprite_genNext,
    readSprite_genNext, readSprite_genNext]

/-- SPR_INIT: after `n` constructions the first `n` sprites fit, whatever the bank held. -/
theorem forBelow_initSprite_fits {s : State} (h : s.Inv) {n : Nat} (hn : n ≤ Config.nMax) :
    (forBelow n initSprite s).Inv ∧
      ∀ k, k < n → (readSprite (forBelow n initSprite s) k).Fits := by
  refine forBelow_count (P := fun m t => t.Inv ∧ ∀ k, k < m → (readSprite t k).Fits)
    ⟨h, fun k hk => absurd hk (Nat.not_lt_zero k)⟩ fun i t hi ht => ?_
  obtain ⟨hinv, hfits⟩ := ht
  refine ⟨hinv.initSprite i, fun k hk => ?_⟩
  rw [readSprite_initSprite hinv]
  split
  · exact newSprite_fits t hinv.vscale hinv.sscale
  · next hne => exact hfits k (by omega)

/-- A tick keeps a sprite in use in range, in each arm. -/
theorem State.Inv.updateSprite {s : State} (h : s.Inv) {k : Nat} (hk : k < s.nspr.toNat) :
    (updateSprite k s).Inv := by
  obtain ⟨hv, ht, hs, hmin⟩ := h.bank k hk
  unfold Machine.updateSprite
  dsimp only
  split
  · exact h.writeSprite k ⟨drift_down_inUnit hv ht hs, ht, hs, hmin⟩
  · split
    · exact h.writeSprite k ⟨drift_up_inUnit hv ht hs, ht, hs, hmin⟩
    · exact h.genNext.genNext.writeSprite k
        (retarget_fits s _ (h.bank k hk) h.vscale h.sscale)

theorem State.sameButBank.nspr_eq {s t : State} (h : s.sameButBank t) : t.nspr = s.nspr := by
  rw [h]; rfl

theorem State.Inv.tickSprites {s : State} (h : s.Inv) : (tickSprites s).Inv := by
  have hloop : (Machine.tickSprites s).Inv ∧ (Machine.tickSprites s).nspr = s.nspr :=
    forBelow_induction (P := fun t => t.Inv ∧ t.nspr = s.nspr) ⟨h, rfl⟩ fun i t hi ht =>
      ⟨ht.1.updateSprite (ht.2 ▸ hi), (updateSprite_sameButBank i t).nspr_eq.trans ht.2⟩
  exact hloop.1

/-! ### Commands -/

theorem messageFloat_inUnit (s : State) (j : Nat) : inUnit (messageFloat s j) := clamp01_inUnit _

/-- A message is sanitised: both of its colours are in range (45_host_control.md R214). -/
theorem messageOperand_inUnit {s : State} {m : Message} (h : messageOperand s = some m) :
    m.startC.InUnit ∧ m.endC.InUnit := by
  obtain ⟨p, -, rfl⟩ := Option.map_eq_some_iff.1 h
  exact ⟨⟨messageFloat_inUnit s 0, messageFloat_inUnit s 1, messageFloat_inUnit s 2⟩,
    messageFloat_inUnit s 3, messageFloat_inUnit s 4, messageFloat_inUnit s 5⟩

theorem State.Inv.adoptMessage {s : State} (h : s.Inv) {m : Message} (hs : m.startC.InUnit)
    (he : m.endC.InUnit) : (adoptMessage m s).Inv := by
  unfold Machine.adoptMessage
  split
  · exact h.setStatus _
  · exact (h.setAct hs he).setStatus _

theorem State.Inv.frameTick {s : State} (h : s.Inv) : (frameTick s).Inv := by
  unfold Machine.frameTick
  cases s.act.pattern with
  | allOff => exact h.allOff
  | gradient => exact h.fillGradient _ _
  | dual => exact h.fillGradientDual _ _
  | triangle => exact h.fillTriangle _ _ _
  | random => exact (h.fillRandom _ _).tickSprites

/-- Every command keeps the invariant. -/
theorem State.Inv.exec {s : State} (h : s.Inv) {i : Instr} {t : State}
    (ht : exec i s = .next t) : t.Inv := by
  cases i with
  | allOff => cases ht; exact h.allOff
  | fillGradient => cases ht; exact h.fillGradient _ _
  | fillGradientDual => cases ht; exact h.fillGradientDual _ _
  | fillTriangle => cases ht; exact h.fillTriangle _ _ _
  | fillRandom => cases ht; exact h.fillRandom _ _
  | setPixel idx => cases ht; exact h.putPixel _ h.pix
  | hsv2rgb => cases ht; exact h.setPix (conv_fits s _ h.gamma)
  | hsvInterp => cases ht; exact h.setR (hsvInterp_inUnit _ _ h.b)
  | scale => cases ht; exact h.setXr _
  | mapRange => cases ht; exact h.setXr _
  | lcgNext => cases ht; exact h.genNext
  | lcgNextF => cases ht; exact h.genNext.setRndF (drawValue_inUnit s)
  | sprInit n =>
    cases ht
    have hcount := countOperand_le n Config.nMax
    obtain ⟨hinv, hfits⟩ := forBelow_initSprite_fits h hcount
    have hn := ofNat_count_toNat hcount
    exact (hinv.setNspr (hn.symm ▸ hcount) (fun k hk => hfits k (hn ▸ hk))).setStatus _
  | sprTick => cases ht; exact h.tickSprites
  | rendInit len proto =>
    simp only [Machine.exec, execRendInit] at ht
    split at ht
    · cases ht; exact h.constructRenderer _ _
    · cases ht; exact h.setStatus _
  | msgLoad =>
    simp only [Machine.exec, execMsgLoad] at ht
    split at ht
    · next m hm =>
      cases ht
      obtain ⟨hs, he⟩ := messageOperand_inUnit hm
      exact h.adoptMessage hs he
    · cases ht; exact h.setStatus _
  | frameTick => cases ht; exact h.frameTick

/-! ### Reset -/

/-- The reset state meets the invariant, whatever the memories of unspecified contents hold. -/
theorem State.Inv.resetFor {c : Config} {fb : Memory Elem} {spr : Memory Sprite}
    {gamma : Memory Elem} (hc : c.WF) (hfb : elemsOk c c.fbCap fb)
    (hgamma : elemsOk c (c.chMax + 1) gamma)
    (hspr : Memory.wf emptySprite spr ∧ ∀ x ∈ spr, x.1 < Config.nMax) :
    (State.resetFor c fb spr gamma).Inv where
  cfg := hc
  a := Hsv.zero_inUnit
  b := Hsv.zero_inUnit
  t := inUnit_zero
  phase := inUnit_zero
  r := Hsv.zero_inUnit
  rndF := inUnit_zero
  vscale := inUnit_zero
  sscale := inUnit_zero
  actStart := Hsv.zero_inUnit
  actEnd := Hsv.zero_inUnit
  pix := Pixel.zero_fits c
  duty := Pixel.zero_fits c
  len := Nat.zero_le _
  lenPwm := fun _ => Nat.zero_le _
  nspr := Nat.zero_le _
  fb := hfb
  gamma := by
    change elemsOk c (c.chMax + 1) (c.gammaInit.getD gamma)
    cases hg : c.gammaInit with
    | some g => exact gammaInit_elemsOk hc hg
    | none => exact hgamma
  spr := hspr
  msgbuf := Memory.nil_ok _ _
  bank := fun k hk => absurd hk (Nat.not_lt_zero k)

theorem suggested16_wf : Config.suggested16.WF := by
  constructor
  case gammaInit => intro g hg; cases hg
  all_goals decide

/-- Settles O18; the model's reset state is that of empty memories. -/
theorem invariantHoldsAtReset : Obligations.InvariantHoldsAtReset :=
  ⟨State.Inv.resetFor suggested16_wf (Memory.nil_ok _ _) (Memory.nil_ok _ _) (Memory.nil_ok _ _),
    fun _ _ _ _ hc hfb hgamma hwf hcap => State.Inv.resetFor hc hfb hgamma ⟨hwf, hcap⟩⟩

/-- A memory loaded with elements cut to `CW` bits. -/
theorem elemsOk_load (c : Config) (cap : Nat) (cells : List (Nat × Elem)) :
    elemsOk c cap (Memory.load emptyElem cap (elemCW c) cells) := by
  refine ⟨Memory.wf_load _ _ _, fun x hx => ?_⟩
  obtain ⟨hcap, v, hv⟩ := Memory.mem_load _ _ _ hx
  exact ⟨hcap, hv ▸ elemCW_toNat c v⟩

theorem State.Inv.resetEvent {s : State} (h : s.Inv) (c : ResetContents) :
    (resetEvent c s).Inv :=
  (State.Inv.resetFor h.cfg (elemsOk_load _ _ _) (elemsOk_load _ _ _)
    ⟨Memory.wf_load _ _ _, fun _ hx => (Memory.mem_load _ _ _ hx).1⟩).setPending _

/-! ### Host accesses and the step -/

/-- A write of a register stores a clamped float, a channel of `CW` bits, a word that no range
binds, or nothing. -/
theorem State.Inv.writeReg {s : State} (h : s.Inv) (w : Word) (r : Reg) :
    (writeReg s w r).Inv := by
  have hw := clamp01_inUnit w
  have hc := truncCW_le s.cfg w
  obtain ⟨hah, has, hav⟩ := h.a
  obtain ⟨hbh, hbs, hbv⟩ := h.b
  obtain ⟨hpr, hpg, hpb⟩ := h.pix
  cases r with
  | aH => exact { h with a := ⟨hw, has, hav⟩ }
  | aS => exact { h with a := ⟨hah, hw, hav⟩ }
  | aV => exact { h with a := ⟨hah, has, hw⟩ }
  | bH => exact { h with b := ⟨hw, hbs, hbv⟩ }
  | bS => exact { h with b := ⟨hbh, hw, hbv⟩ }
  | bV => exact { h with b := ⟨hbh, hbs, hw⟩ }
  | t => exact { h with t := hw }
  | phase => exact { h with phase := hw }
  | pixR => exact { h with pix := ⟨hc, hpg, hpb⟩ }
  | pixG => exact { h with pix := ⟨hpr, hc, hpb⟩ }
  | pixB => exact { h with pix := ⟨hpr, hpg, hc⟩ }
  | vscale => exact { h with vscale := hw }
  | sscale => exact { h with sscale := hw }
  | ctrl | x0 | x1 | x2 | seedLo | seedHi => exact { h with }
  | cmd | status | rH | rS | rV | xr | rndF | nspr | len | proto | actPattern | actStartH
  | actStartS | actStartV | actEndH | actEndS | actEndV | dutyR | dutyG | dutyB => exact h

theorem State.Inv.writeRegNumber {s : State} (h : s.Inv) (n : Nat) (w : Word) :
    (writeRegNumber s n w).Inv := by
  unfold Machine.writeRegNumber
  split
  · exact h.writeReg w _
  · exact h

theorem State.Inv.effectOf {s : State} (h : s.Inv) (e : Event) : (effectOf s e).Inv := by
  cases e with
  | regWrite n w => exact h.writeRegNumber n w
  | busRegWrite offset bytes w => exact h.writeRegNumber _ w
  | fbWrite j v => exact h.writeFb j _
  | gammaWrite j v => exact h.writeGamma j _
  | msgWrite i v => exact h.writeMsg i _
  | reset c => exact h.resetEvent c
  | regRead _ | busRegRead _ _ | fbRead _ | sprRead _ _ | sprWrite _ _ _ | gammaRead _
  | msgRead _ => exact h

/-- Settles O19: the block waits, runs a command, takes an illegal word or serves an event, and each
keeps the invariant. -/
theorem stepKeepsInvariant : Obligations.StepKeepsInvariant := by
  intro s t h ht
  obtain ⟨-, rfl⟩ | ⟨e, rest, w, -, -, hrun⟩ | ⟨e, rest, -, -, rfl⟩ := step_cases ht
  · exact h
  · have hs := (h.setPending rest).setAnswer none
    obtain ⟨i, -, hexec⟩ | rfl := runCommand_cases hrun
    · exact hs.exec hexec
    · exact hs.setStatus _
  · exact ((h.setPending rest).effectOf e).setAnswer _

end Sys2Proof.Machine

/-! What a command does to `STATUS` (10_state.md R34): one change of its flags, beside an effect
that no flag has a part in. -/

namespace Sys2Proof.Machine

open Sys2Proof

/-! ### Operations that neither read nor write `STATUS` -/

/-- An operation on the state that neither reads nor writes `STATUS`. -/
def IgnoresStatus (op : State → State) : Prop :=
  ∀ (s : State) (f : Status), op (s.setStatus f) = (op s).setStatus f

theorem IgnoresStatus.comp {op op' : State → State} (h : IgnoresStatus op)
    (h' : IgnoresStatus op') : IgnoresStatus fun s => op' (op s) :=
  fun s f => (congrArg op' (h s f)).trans (h' (op s) f)

theorem forBelow_setStatus {body : Nat → State → State} (h : ∀ i, IgnoresStatus (body i))
    (n : Nat) (s : State) (f : Status) :
    forBelow n body (s.setStatus f) = (forBelow n body s).setStatus f := by
  induction n with
  | zero => rfl
  | succ n ih => exact (congrArg (body n) ih).trans (h n _ f)

theorem writeFb_setStatus (s : State) (j : Nat) (v : Elem) (f : Status) :
    writeFb (s.setStatus f) j v = (writeFb s j v).setStatus f := by
  by_cases hj : j < s.cfg.fbCap
  · simp only [writeFb, State.setStatus_cfg, hj, if_true]
    rfl
  · simp only [writeFb, State.setStatus_cfg, hj, if_false]

theorem writeSprite_setStatus (s : State) (k : Nat) (v : Sprite) (f : Status) :
    writeSprite (s.setStatus f) k v = (writeSprite s k v).setStatus f := by
  by_cases hk : k < Config.nMax
  · simp only [writeSprite, hk, if_true]
    rfl
  · simp only [writeSprite, hk, if_false]

/-! ### Pixels -/

theorem putClocked_ignoresStatus (i : Nat) (p : Pixel) : IgnoresStatus (putClocked i p) := by
  intro s f
  simp only [putClocked, State.setStatus_cfg, writeFb_setStatus]

theorem putSingle_ignoresStatus (i : Nat) (p : Pixel) : IgnoresStatus (putSingle i p) := by
  intro s f
  simp only [putSingle, writeFb_setStatus]

theorem putPixel_ignoresStatus (i : Nat) (p : Pixel) : IgnoresStatus (putPixel i p) := by
  intro s f
  by_cases hi : s.len.toNat ≤ i
  · simp only [putPixel, State.setStatus_len, hi, if_true]
  · simp only [putPixel, State.setStatus_len, State.setStatus_proto, hi, if_false]
    cases s.proto with
    | clocked => exact putClocked_ignoresStatus i p s f
    | single => exact putSingle_ignoresStatus i p s f
    | pwm => rfl

theorem conv_setStatus (s : State) (f : Status) (x : Hsv) : conv (s.setStatus f) x = conv s x := rfl

/-- A rendered pixel whose position reads no flag. -/
theorem renderPixel_ignoresStatus (i : Nat) (c d : Hsv) {x : State → F32}
    (hx : ∀ (s : State) f, x (s.setStatus f) = x s) :
    IgnoresStatus fun s => renderPixel i c d (x s) s := by
  intro s f
  simp only [renderPixel, conv_setStatus, hx]
  exact putPixel_ignoresStatus i _ s f

theorem posOf_setStatus (i : Nat) (s : State) (f : Status) :
    posOf (s.setStatus f).len.toNat i = posOf s.len.toNat i := rfl

theorem allOff_ignoresStatus : IgnoresStatus allOff :=
  fun s f => forBelow_setStatus (fun i => putPixel_ignoresStatus i _) _ s f

theorem fillGradient_ignoresStatus (c d : Hsv) : IgnoresStatus (fillGradient c d) :=
  fun s f => forBelow_setStatus (fun i => renderPixel_ignoresStatus i c d (posOf_setStatus i)) _ s f

theorem fillGradientDual_ignoresStatus (c d : Hsv) : IgnoresStatus (fillGradientDual c d) :=
  fun s f => forBelow_setStatus (fun i => renderPixel_ignoresStatus i d c fun t g =>
    congrArg fold (posOf_setStatus i t g)) _ s f

theorem fillTriangle_ignoresStatus (c d : Hsv) (phase : F32) :
    IgnoresStatus (fillTriangle c d phase) :=
  fun s f => forBelow_setStatus (fun i => renderPixel_ignoresStatus i d c fun t g =>
    congrArg (fun x => fold (phaseShift x phase)) (posOf_setStatus i t g)) _ s f

theorem readSprite_setStatus (s : State) (k : Nat) (f : Status) :
    readSprite (s.setStatus f) k = readSprite s k := rfl

theorem fillRandom_ignoresStatus (c d : Hsv) : IgnoresStatus (fillRandom c d) :=
  fun s f => forBelow_setStatus (fun i => renderPixel_ignoresStatus i d c fun t g =>
    congrArg Sprite.value (readSprite_setStatus t i g)) _ s f

theorem writeFraming_ignoresStatus (proto : Proto) (len : Nat) :
    IgnoresStatus (writeFraming proto len) := by
  cases proto with
  | clocked =>
    have hheader : IgnoresStatus writeHeader :=
      forBelow_setStatus (fun _ t => writeFb_setStatus t _ t.cfg.hdrVal) _
    have hbright : IgnoresStatus (writeBrightness len) :=
      forBelow_setStatus (fun _ t => writeFb_setStatus t _ t.cfg.bright) _
    have hend : IgnoresStatus (writeEndFrame len) :=
      fun s f => forBelow_setStatus (fun _ t => writeFb_setStatus t _ t.cfg.endVal) _ s f
    exact (hheader.comp hbright).comp hend
  | single => exact fun _ _ => rfl
  | pwm => exact fun _ _ => rfl

/-! ### Sprites -/

theorem seedOf_setStatus (s : State) (f : Status) : seedOf (s.setStatus f) = seedOf s := rfl

theorem drawValue_setStatus (s : State) (f : Status) :
    drawValue (s.setStatus f) = drawValue s :=
  congrArg (fun n => drawOfSeed (lcgStep n)) (seedOf_setStatus s f)

theorem genNext_setStatus (s : State) (f : Status) :
    genNext (s.setStatus f) = (genNext s).setStatus f :=
  congrArg (fun n => (s.setStatus f).setSeed (BitVec.ofNat 32 (lcgStep n))
    (BitVec.ofNat 32 (lcgStep n / 2 ^ 32))) (seedOf_setStatus s f)

theorem newSprite_setStatus (s : State) (f : Status) : newSprite (s.setStatus f) = newSprite s := by
  simp only [newSprite, scaledValue, scaledStep, genNext_setStatus, drawValue_setStatus,
    State.setStatus_vscale, State.setStatus_sscale]

theorem retarget_setStatus (s : State) (x : Sprite) (f : Status) :
    retarget (s.setStatus f) x = retarget s x := by
  simp only [retarget, scaledValue, scaledStep, genNext_setStatus, drawValue_setStatus,
    State.setStatus_vscale, State.setStatus_sscale]

theorem initSprite_ignoresStatus (k : Nat) : IgnoresStatus (initSprite k) := by
  intro s f
  simp only [initSprite, newSprite_setStatus, genNext_setStatus, writeSprite_setStatus]

theorem updateSprite_ignoresStatus (k : Nat) : IgnoresStatus (updateSprite k) := by
  intro s f
  simp only [updateSprite, readSprite_setStatus, retarget_setStatus, genNext_setStatus,
    writeSprite_setStatus, apply_ite (State.setStatus · f)]

theorem tickSprites_ignoresStatus : IgnoresStatus tickSprites :=
  fun s f => forBelow_setStatus updateSprite_ignoresStatus _ s f

theorem frameTick_ignoresStatus : IgnoresStatus frameTick := by
  intro s f
  simp only [frameTick, State.setStatus_act, State.setStatus_phase]
  cases s.act.pattern with
  | allOff => exact allOff_ignoresStatus s f
  | gradient => exact fillGradient_ignoresStatus _ _ s f
  | dual => exact fillGradientDual_ignoresStatus _ _ s f
  | triangle => exact fillTriangle_ignoresStatus _ _ _ s f
  | random => exact ((fillRandom_ignoresStatus _ _).comp tickSprites_ignoresStatus) s f

/-! ### Commands -/

/-- All that a command can do to the flags: leave them, set one of the sticky ones, or give the two
message flags new values. -/
inductive FlagChange where
  | keep
  | setRendOk
  | setSprOk
  | setMsg (valid changed : Bool)
  | setIll

/-- The flags after a change. -/
def FlagChange.apply : FlagChange → Status → Status
  | .keep, f => f
  | .setRendOk, f => { f with rendOk := true }
  | .setSprOk, f => { f with sprOk := true }
  | .setMsg valid changed, f => { f with msgValid := valid, msgChanged := changed }
  | .setIll, f => { f with ill := true }

/-- The flags that only the reset event clears (10_state.md R34) stay set through a change. -/
theorem FlagChange.apply_sticky (c : FlagChange) (f : Status) :
    (f.ill = true → (c.apply f).ill = true) ∧ (f.rendOk = true → (c.apply f).rendOk = true) ∧
      (f.sprOk = true → (c.apply f).sprOk = true) := by
  cases c with
  | keep => exact ⟨id, id, id⟩
  | setMsg => exact ⟨id, id, id⟩
  | setRendOk => exact ⟨id, fun _ => rfl, id⟩
  | setSprOk => exact ⟨id, id, fun _ => rfl⟩
  | setIll => exact ⟨fun _ => rfl, id, id⟩

/-- A change gives a flag a value of its own or leaves it, whatever the flags were. -/
theorem FlagChange.apply_flag (c : FlagChange) (f f' : Status) :
    ∀ flag ∈ [Status.rendOk, Status.sprOk, Status.msgValid, Status.msgChanged, Status.ill],
      flag (c.apply f) = flag (c.apply f') ∨
        (flag (c.apply f) = flag f ∧ flag (c.apply f') = flag f') := by
  cases c <;> simp [FlagChange.apply]

/-- Run from any flags, the command makes one and the same change of them and leaves one and the
same state beside them. -/
def ChangesFlags (i : Instr) (s : State) : Prop :=
  ∃ (c : FlagChange) (t : State), ∀ f, exec i (s.setStatus f) = .next (t.setStatus (c.apply f))

theorem messageOperand_setStatus (s : State) (f : Status) :
    messageOperand (s.setStatus f) = messageOperand s := rfl

theorem adoptMessage_of_eq {m : Message} {s : State} (h : m = s.act) :
    adoptMessage m s = setMsgFlags s true false := if_pos h

theorem adoptMessage_of_ne {m : Message} {s : State} (h : m ≠ s.act) :
    adoptMessage m s = setMsgFlags (s.setAct m) true true := if_neg h

theorem execMsgLoad_of_some {m : Message} {s : State} (h : messageOperand s = some m) :
    execMsgLoad s = .next (adoptMessage m s) := by
  unfold execMsgLoad
  rw [h]

theorem execMsgLoad_of_none {s : State} (h : messageOperand s = none) :
    execMsgLoad s = .next (setMsgFlags s false false) := by
  unfold execMsgLoad
  rw [h]

theorem msgLoad_changesFlags (s : State) : ChangesFlags .msgLoad s := by
  cases hm : messageOperand s with
  | none => exact ⟨.setMsg false false, s, fun f => execMsgLoad_of_none (s := s.setStatus f) hm⟩
  | some m =>
    have hexec (f : Status) :
        exec .msgLoad (s.setStatus f) = .next (adoptMessage m (s.setStatus f)) :=
      execMsgLoad_of_some hm
    by_cases hact : m = s.act
    · exact ⟨.setMsg true false, s, fun f =>
        (hexec f).trans (congrArg _ (adoptMessage_of_eq (s := s.setStatus f) hact))⟩
    · exact ⟨.setMsg true true, s.setAct m, fun f =>
        (hexec f).trans (congrArg _ (adoptMessage_of_ne (s := s.setStatus f) hact))⟩

theorem sprInit_changesFlags (n : BitVec 11) (s : State) : ChangesFlags (.sprInit n) s := by
  refine ⟨.setSprOk, (forBelow (countOperand n Config.nMax) initSprite s).setNspr
    (BitVec.ofNat 11 (countOperand n Config.nMax)), fun f => ?_⟩
  simp only [exec, execSprInit, forBelow_setStatus initSprite_ignoresStatus]
  rfl

theorem clearFb_setStatus (s : State) (f : Status) :
    clearFb (s.setStatus f) = (clearFb s).setStatus f := rfl

theorem State.setDuty_setStatus (s : State) (f : Status) (p : Pixel) :
    (s.setStatus f).setDuty p = (s.setDuty p).setStatus f := rfl

theorem State.setRndF_setStatus (s : State) (f : Status) (v : F32) :
    (s.setStatus f).setRndF v = (s.setRndF v).setStatus f := rfl

theorem rendInit_changesFlags (len : BitVec 11) (proto : BitVec 2) (s : State) :
    ChangesFlags (.rendInit len proto) s := by
  cases hp : protoOperand proto with
  | none =>
    refine ⟨.setIll, s, fun f => ?_⟩
    simp only [exec, execRendInit, hp]
    rfl
  | some p =>
    refine ⟨.setRendOk, constructRenderer len p s, fun f => ?_⟩
    simp only [exec, execRendInit, hp, constructRenderer, clearFb_setStatus,
      State.setDuty_setStatus, writeFraming_ignoresStatus p _ _ f]
    rfl

/-- Every command makes one change of the flags, whatever they are. -/
theorem exec_changesFlags (i : Instr) (s : State) : ChangesFlags i s := by
  have keep {i : Instr} (op : State → State) (h : IgnoresStatus op)
      (hexec : ∀ s, exec i s = .next (op s)) : ChangesFlags i s :=
    ⟨.keep, op s, fun f => (hexec _).trans (congrArg _ (h s f))⟩
  cases i with
  | allOff => exact keep allOff allOff_ignoresStatus fun _ => rfl
  | fillGradient =>
    exact keep (fun s => fillGradient s.a s.b s) (fun s => fillGradient_ignoresStatus s.a s.b s)
      fun _ => rfl
  | fillGradientDual =>
    exact keep (fun s => fillGradientDual s.a s.b s)
      (fun s => fillGradientDual_ignoresStatus s.a s.b s) fun _ => rfl
  | fillTriangle =>
    exact keep (fun s => fillTriangle s.a s.b s.phase s)
      (fun s => fillTriangle_ignoresStatus s.a s.b s.phase s) fun _ => rfl
  | fillRandom =>
    exact keep (fun s => fillRandom s.a s.b s) (fun s => fillRandom_ignoresStatus s.a s.b s)
      fun _ => rfl
  | setPixel idx =>
    exact keep (fun s => putPixel (indexOperand idx) s.pix s)
      (fun s => putPixel_ignoresStatus _ s.pix s) fun _ => rfl
  | hsv2rgb => exact keep (fun s => s.setPix (conv s s.a)) (fun _ _ => rfl) fun _ => rfl
  | hsvInterp => exact keep (fun s => s.setR (hsvInterp s.a s.b s.t)) (fun _ _ => rfl) fun _ => rfl
  | scale =>
    exact keep (fun s => s.setXr (.ofNat 32 (scaleValue s.cfg s.x0.toNat s.x1.toNat)))
      (fun _ _ => rfl) fun _ => rfl
  | mapRange =>
    exact keep (fun s => s.setXr (.ofNat 32 (mapRangeValue s.cfg s.x0.toNat s.x1.toNat s.x2.toNat)))
      (fun _ _ => rfl) fun _ => rfl
  | lcgNext => exact keep genNext genNext_setStatus fun _ => rfl
  | lcgNextF =>
    refine keep (fun s => (genNext s).setRndF (drawValue s)) (fun s f => ?_) fun _ => rfl
    simp only [genNext_setStatus, drawValue_setStatus, State.setRndF_setStatus]
  | sprInit n => exact sprInit_changesFlags n s
  | sprTick => exact keep tickSprites tickSprites_ignoresStatus fun _ => rfl
  | rendInit len proto => exact rendInit_changesFlags len proto s
  | msgLoad => exact msgLoad_changesFlags s
  | frameTick => exact keep frameTick frameTick_ignoresStatus fun _ => rfl

/-- A command makes one change of the flags, and would make it of any others. -/
theorem exec_flagChange {i : Instr} {s t : State} (h : exec i s = .next t) :
    ∃ c : FlagChange, t.status = c.apply s.status ∧
      ∀ f, exec i (s.setStatus f) = .next (t.setStatus (c.apply f)) := by
  obtain ⟨c, u, hc⟩ := exec_changesFlags i s
  obtain rfl := Host.Outcome.next.inj (h.symm.trans (hc s.status))
  exact ⟨c, rfl, hc⟩

/-- Settles O12: from `f` the command makes the change that it makes from the flags of `s`. -/
theorem commandsIgnoreStatus : Obligations.CommandsIgnoreStatus := by
  intro i s t f ht
  obtain ⟨c, hstatus, hexec⟩ := exec_flagChange ht
  refine ⟨c.apply f, hexec f, ?_⟩
  rw [hstatus]
  exact c.apply_flag f s.status

/-! ### Steps -/

theorem writeFb_status (s : State) (j : Nat) (v : Elem) : (writeFb s j v).status = s.status := by
  rw [writeFb_frame]; rfl

theorem writeGamma_status (s : State) (j : Nat) (v : Elem) :
    (writeGamma s j v).status = s.status := by
  rw [writeGamma_frame]; rfl

theorem writeMsg_status (s : State) (i : Nat) (v : Byte) : (writeMsg s i v).status = s.status := by
  rw [writeMsg_frame]; rfl

theorem writeRegNumber_status (s : State) (n : Nat) (w : Word) :
    (writeRegNumber s n w).status = s.status := by
  unfold writeRegNumber
  split
  · next r _ => cases r <;> rfl
  · rfl

/-- No host access changes a flag, the reset event apart. -/
theorem effectOf_status (s : State) {e : Event} (he : ∀ c, e ≠ .reset c) :
    (effectOf s e).status = s.status := by
  cases e with
  | regWrite n w => exact writeRegNumber_status s n w
  | busRegWrite offset bytes w => exact writeRegNumber_status s _ w
  | fbWrite j v => exact writeFb_status s j _
  | gammaWrite j v => exact writeGamma_status s j _
  | msgWrite i v => exact writeMsg_status s i _
  | reset c => exact absurd rfl (he c)
  | regRead _ | busRegRead _ _ | fbRead _ | sprRead _ _ | sprWrite _ _ _ | gammaRead _
  | msgRead _ => rfl

/-- Settles O11: but for the reset event, a step makes a change of the flags that a command can
make. -/
theorem stickyFlagsStayUntilReset : Obligations.StickyFlagsStayUntilReset := by
  intro s t ht hreset
  have hchange : ∃ c : FlagChange, t.status = c.apply s.status := by
    obtain ⟨-, rfl⟩ | ⟨e, rest, w, -, -, hrun⟩ | ⟨e, rest, hp, -, rfl⟩ := step_cases ht
    · exact ⟨.keep, rfl⟩
    · obtain ⟨i, -, hexec⟩ | rfl := runCommand_cases hrun
      · obtain ⟨c, hc, -⟩ := exec_flagChange hexec
        exact ⟨c, hc⟩
      · exact ⟨.setIll, rfl⟩
    · exact ⟨.keep, effectOf_status (s.setPending rest) fun c hc => hreset c rest (hc ▸ hp)⟩
  obtain ⟨c, hc⟩ := hchange
  rw [hc]
  exact c.apply_sticky s.status

end Sys2Proof.Machine

/-! What a command leaves unchanged: the registers and memories that only the host writes
(10_state.md R32, 45_host_control.md R216). -/

namespace Sys2Proof.Machine

open Sys2Proof

/-- What only the host writes: A, B, `T`, `PHASE`, `X0` to `X2`, `VSCALE`, `SSCALE`, `CTRL`, `GAMMA`
and `MSGBUF`. -/
def State.hostState (s : State) :
    Hsv × Hsv × F32 × F32 × Word × Word × Word × F32 × F32 × Bool × Memory Elem × Memory Byte :=
  (s.a, s.b, s.t, s.phase, s.x0, s.x1, s.x2, s.vscale, s.sscale, s.gammaEn, s.gamma, s.msgbuf)

theorem State.sameButPixels.hostState_eq {s t : State} (h : s.sameButPixels t) :
    t.hostState = s.hostState := by
  rw [h]; rfl

theorem State.sameButBank.hostState_eq {s t : State} (h : s.sameButBank t) :
    t.hostState = s.hostState := by
  rw [h]; rfl

theorem State.setRndF_hostState (s : State) (v : F32) :
    (s.setRndF v).hostState = s.hostState := rfl

theorem constructRenderer_hostState (len : BitVec 11) (proto : Proto) (s : State) :
    (constructRenderer len proto s).hostState = s.hostState :=
  (writeFraming_sameButPixels proto (renderLength len proto)
    ((clearFb s).setDuty Pixel.zero)).hostState_eq

theorem adoptMessage_hostState (m : Message) (s : State) :
    (adoptMessage m s).hostState = s.hostState := by
  unfold adoptMessage
  split <;> rfl

theorem frameTick_hostState (s : State) : (frameTick s).hostState = s.hostState := by
  unfold frameTick
  cases s.act.pattern with
  | allOff => exact (allOff_sameButPixels s).hostState_eq
  | gradient => exact (fillGradient_sameButPixels _ _ s).hostState_eq
  | dual => exact (fillGradientDual_sameButPixels _ _ s).hostState_eq
  | triangle => exact (fillTriangle_sameButPixels _ _ _ s).hostState_eq
  | random =>
    exact (tickSprites_sameButBank _).hostState_eq.trans
      (fillRandom_sameButPixels _ _ s).hostState_eq

/-- No command writes what only the host writes: pixels, sprites, results and flags lie
elsewhere. -/
theorem exec_hostState {i : Instr} {s t : State} (h : exec i s = .next t) :
    t.hostState = s.hostState := by
  cases i with
  | allOff => cases h; exact (allOff_sameButPixels s).hostState_eq
  | fillGradient => cases h; exact (fillGradient_sameButPixels _ _ s).hostState_eq
  | fillGradientDual => cases h; exact (fillGradientDual_sameButPixels _ _ s).hostState_eq
  | fillTriangle => cases h; exact (fillTriangle_sameButPixels _ _ _ s).hostState_eq
  | fillRandom => cases h; exact (fillRandom_sameButPixels _ _ s).hostState_eq
  | setPixel idx => cases h; exact (putPixel_sameButPixels _ _ s).hostState_eq
  | hsv2rgb => cases h; rfl
  | hsvInterp => cases h; rfl
  | scale => cases h; rfl
  | mapRange => cases h; rfl
  | lcgNext => cases h; exact (genNext_sameButBank s).hostState_eq
  | lcgNextF =>
    cases h
    exact (State.setRndF_hostState _ _).trans (genNext_sameButBank s).hostState_eq
  | sprInit n =>
    cases h
    exact (forBelow_sameButBank (n := countOperand n Config.nMax) (s := s)
      initSprite_sameButBank).hostState_eq
  | sprTick => cases h; exact (tickSprites_sameButBank s).hostState_eq
  | rendInit len proto =>
    simp only [exec, execRendInit] at h
    split at h
    · cases h; exact constructRenderer_hostState _ _ s
    · cases h; rfl
  | msgLoad =>
    simp only [exec, execMsgLoad] at h
    split at h
    · cases h; exact adoptMessage_hostState _ s
    · cases h; rfl
  | frameTick => cases h; exact frameTick_hostState s

/-- Settles O15, field by field of what only the host writes. -/
theorem commandsKeepHostState : Obligations.CommandsKeepHostState := by
  intro i s t h
  simpa only [State.hostState, Prod.mk.injEq] using exec_hostState h

end Sys2Proof.Machine

/-! The register space through the port: what a read gives, what a write stores, and the same
accesses through a byte-addressed bus (10_state.md R31, R32, 20_memory.md R72, R74). -/

namespace Sys2Proof.Machine

open Sys2Proof

/-! ### The byte-addressed bus -/

/-- Register `n` is the aligned 32-bit unit at byte offset `4*n`. -/
theorem busRegNumber_aligned (n : Nat) : busRegNumber (4 * n) 4 = n := by
  unfold busRegNumber
  rw [if_pos ⟨rfl, Nat.mul_mod_right 4 n⟩, Nat.mul_div_cancel_left n (by decide)]

/-- Every other access names a number outside the register space. -/
theorem busRegNumber_misaligned {offset bytes : Nat} (h : bytes ≠ 4 ∨ offset % 4 ≠ 0) :
    busRegNumber offset bytes = 64 := by
  unfold busRegNumber
  exact if_neg (by omega)

/-- Settles O25: the accesses depend on the register number alone, and 64 is that of no register. -/
theorem busAccessesAreAlignedWords : Obligations.BusAccessesAreAlignedWords := by
  refine fun s w => ⟨fun n => ?_, fun offset bytes h => ?_⟩
  · simp only [answerOf, commandWord, effectOf, busRegNumber_aligned, and_self]
  · simp only [answerOf, commandWord, effectOf, busRegNumber_misaligned h]
    exact ⟨rfl, rfl, rfl⟩

/-! ### Reads -/

/-- The bits of `STATUS` in their order, the lowest first; `BUSY` and the reserved bits are 0
(10_state.md R34). -/
def statusBits (f : Status) : List Bool :=
  [false, f.rendOk, f.sprOk, f.msgValid, f.msgChanged, false, false, f.ill]

theorem statusWord_eq_statusBits (f : Status) :
    statusWord f = (BitVec.ofBoolListLE (statusBits f)).setWidth 32 := by
  obtain ⟨rendOk, sprOk, msgValid, msgChanged, ill⟩ := f
  revert rendOk sprOk msgValid msgChanged ill
  decide

theorem statusWord_getLsbD (f : Status) (k : Nat) :
    (statusWord f).getLsbD k = (statusBits f).getD k false := by
  have hlen : (statusBits f).length = 8 := rfl
  rw [statusWord_eq_statusBits, BitVec.getLsbD_setWidth, BitVec.getLsbD_ofBoolListLE]
  by_cases hk : k < 8
  · rw [decide_eq_true (by omega), Bool.true_and]
  · rw [List.getD_eq_default _ _ (by omega), Bool.and_false]

theorem ctrlWord_eq (gammaEn : Bool) : ctrlWord gammaEn = if gammaEn then 1#32 else 0#32 := by
  cases gammaEn <;> rfl

/-- Settles O26: the bits of `STATUS` and the tags by their cases, every other register as it is. -/
theorem registerReadsGiveRegisters : Obligations.RegisterReadsGiveRegisters := by
  intro s
  refine ⟨rfl, rfl, fun k => ?status, ?ctrl, rfl, rfl, rfl, rfl, rfl, rfl, rfl, rfl, rfl, rfl, rfl,
    rfl, rfl, rfl, rfl, rfl, rfl, rfl, rfl, rfl, rfl, rfl, rfl, rfl, rfl, ?proto, ?pattern, rfl,
    rfl, rfl, rfl, rfl, rfl, rfl, rfl, rfl⟩
  case status =>
    refine (statusWord_getLsbD s.status k).trans ?_
    by_cases hk : k < 8
    · interval_cases k <;> rfl
    · have hdefault := List.getD_eq_default (statusBits s.status) false (Nat.le_of_not_lt hk)
      rw [hdefault, if_neg, if_neg, if_neg, if_neg, if_neg] <;> omega
  case ctrl => exact congrArg some (ctrlWord_eq s.gammaEn)
  case proto =>
    show some (BitVec.ofNat 32 (protoNumber s.proto)) = _
    cases s.proto <;> rfl
  case pattern =>
    show some (BitVec.ofNat 32 (patternNumber s.act.pattern)) = _
    cases s.act.pattern <;> rfl

/-! ### Writes -/

theorem readReg_writeReg_ctrl (s : State) (w : Word) :
    readReg (writeReg s w .ctrl) .ctrl = w &&& 1#32 := by
  show ctrlWord (w.getLsbD 0) = _
  rw [BitVec.and_one_eq_setWidth_ofBool_getLsbD]
  cases w.getLsbD 0 <;> rfl

theorem truncCW_setWidth_toNat (c : Config) (w : Word) :
    ((truncCW c w).setWidth 32).toNat = w.toNat % 2 ^ c.bits := by
  rw [BitVec.toNat_setWidth_of_le (by decide), truncCW_toNat]

/-- A write of a register changes what no other register reads: each register has a field of its
own. -/
theorem readReg_writeReg_other (s : State) (w : Word) {r r' : Reg} (h : r ≠ r') :
    readReg (writeReg s w r) r' = readReg s r' := by
  cases r with
  | cmd | status | rH | rS | rV | xr | rndF | nspr | len | proto | actPattern | actStartH
  | actStartS | actStartV | actEndH | actEndS | actEndV | dutyR | dutyG | dutyB => rfl
  | ctrl | aH | aS | aV | bH | bS | bV | t | phase | pixR | pixG | pixB | x0 | x1 | x2 | seedLo
  | seedHi | vscale | sscale => cases r' <;> trivial

/-- A write to the number of a read-only register stores nothing (10_state.md R31). -/
theorem writeRegNumber_readOnly (s : State) (w : Word) {n : Nat}
    (h : n = 1 ∨ (11 ≤ n ∧ n ≤ 13) ∨ n = 20 ∨ n = 23 ∨ (26 ≤ n ∧ n ≤ 38)) :
    writeRegNumber s n w = s := by
  rcases h with rfl | ⟨hlo, hhi⟩ | rfl | rfl | ⟨hlo, hhi⟩
  · rfl
  · interval_cases n <;> rfl
  · rfl
  · rfl
  · interval_cases n <;> rfl

/-- Settles O23: the writes that store by their definitions, the read-only ones by their numbers. -/
theorem registerWritesReadBack : Obligations.RegisterWritesReadBack := by
  intro s w
  refine ⟨fun n => rfl, rfl, rfl, rfl, rfl, rfl, rfl, rfl, rfl, rfl, rfl, rfl, rfl, rfl, rfl, rfl,
    rfl, rfl, rfl, rfl, fun n => writeRegNumber_readOnly s w, ?floats, ?channels,
    readReg_writeReg_ctrl s w, ?words, ?readOnly, fun r r' => readReg_writeReg_other s w⟩
  case floats => intro r hr; fin_cases hr <;> rfl
  case channels => intro r hr; fin_cases hr <;> exact truncCW_setWidth_toNat s.cfg w
  case words => intro r hr; fin_cases hr <;> rfl
  case readOnly => intro r hr; fin_cases hr <;> rfl

end Sys2Proof.Machine

/-! The memories through the port: what an access out of range does, what an access done twice does,
and what a write of a memory reads back as (20_memory.md R70, R72, R76, R79). -/

namespace Sys2Proof.Machine

open Sys2Proof

/-- Settles O7: the event comes off the list and is served. -/
theorem stepServesHostAccess : Obligations.StepServesHostAccess := by
  intro s e rest hp he
  simp only [step, hp, he, serve]

/-! ### Accesses out of range -/

section outOfRange

variable (s : State)

/-- The register map ends at register 38 (10_state.md R50). -/
theorem regOfNumber_reserved {n : Nat} (h : 39 ≤ n) : regOfNumber n = none :=
  List.getElem?_eq_none h

theorem readRegNumber_reserved {n : Nat} (h : 39 ≤ n) : readRegNumber s n = 0#32 := by
  simp only [readRegNumber, regOfNumber_reserved h]

theorem writeRegNumber_reserved {n : Nat} (h : 39 ≤ n) (w : Word) : writeRegNumber s n w = s := by
  simp only [writeRegNumber, regOfNumber_reserved h]

theorem readFb_outOfRange {j : Nat} (h : s.cfg.fbCap ≤ j) : readFb s j = 0#16 :=
  if_neg (Nat.not_lt.2 h)

theorem writeFb_outOfRange {j : Nat} (h : s.cfg.fbCap ≤ j) (v : Elem) : writeFb s j v = s :=
  if_neg (Nat.not_lt.2 h)

theorem readGamma_outOfRange {j : Nat} (h : s.cfg.chMax < j) : readGamma s j = 0#16 :=
  if_neg (Nat.not_le.2 h)

theorem writeGamma_outOfRange {j : Nat} (h : s.cfg.chMax < j) (v : Elem) : writeGamma s j v = s :=
  if_neg (Nat.not_le.2 h)

theorem readMsg_outOfRange {i : Nat} (h : Config.msgLen ≤ i) : readMsg s i = 0#8 :=
  if_neg (Nat.not_lt.2 h)

theorem writeMsg_outOfRange {i : Nat} (h : Config.msgLen ≤ i) (v : Byte) : writeMsg s i v = s :=
  if_neg (Nat.not_lt.2 h)

theorem readSpriteField_outOfRange {k : Nat} (h : Config.nMax ≤ k) (f : SpriteField) :
    readSpriteField s k f = 0#32 :=
  if_neg (Nat.not_lt.2 h)

theorem readSpriteField_inRange {k : Nat} (h : k < Config.nMax) (f : SpriteField) :
    readSpriteField s k f = spriteField (readSprite s k) f :=
  if_pos h

end outOfRange

/-- Settles O22, space by space; a write of `SPR` has no effect by its definition. -/
theorem outOfRangeAccessesDoNothing : Obligations.OutOfRangeAccessesDoNothing := by
  refine fun s w => ⟨fun n h => ⟨?_, writeRegNumber_reserved s h w, if_neg (by omega)⟩,
    fun j h => ⟨?_, writeFb_outOfRange s h _⟩, fun j h => ⟨?_, writeGamma_outOfRange s h _⟩,
    fun i h => ⟨?_, writeMsg_outOfRange s h _⟩, fun k f h => ?_, fun _ _ => rfl⟩
  · simp only [answerOf, readRegNumber_reserved s h]
  · simp only [answerOf, readFb_outOfRange s h, BitVec.setWidth_zero]
  · simp only [answerOf, readGamma_outOfRange s h, BitVec.setWidth_zero]
  · simp only [answerOf, readMsg_outOfRange s h, BitVec.setWidth_zero]
  · simp only [answerOf, readSpriteField_outOfRange s h]

/-! ### An access done twice -/

/-- Of two writes of one index the second stands. -/
theorem Memory.write_write {α : Type} [DecidableEq α] {d : α} (m : Memory α) (j : Nat) (v v' : α)
    (h : Memory.wf d m) :
    Memory.write d (Memory.write d m j v) j v' = Memory.write d m j v' := by
  have hv := Memory.wf_write m j v h
  refine Memory.ext_read _ _ (Memory.wf_write _ j v' hv) (Memory.wf_write m j v' h) fun i => ?_
  rw [Memory.read_write _ _ _ _ hv, Memory.read_write _ _ _ _ h, Memory.read_write _ _ _ _ h]
  split <;> rfl

theorem writeFb_twice (s : State) (j : Nat) (v : Elem) (h : Memory.wf emptyElem s.fb) :
    writeFb (writeFb s j v) j v = writeFb s j v := by
  unfold writeFb
  by_cases hj : j < s.cfg.fbCap
  · simp only [hj, if_true, State.setFb_cfg, State.setFb_fb, Memory.write_write _ _ _ _ h]
    rfl
  · simp only [hj, if_false]

theorem writeGamma_twice (s : State) (j : Nat) (v : Elem) (h : Memory.wf emptyElem s.gamma) :
    writeGamma (writeGamma s j v) j v = writeGamma s j v := by
  unfold writeGamma
  by_cases hj : j ≤ s.cfg.chMax
  · simp only [hj, if_true, State.setGamma_cfg, State.setGamma_gamma,
      Memory.write_write _ _ _ _ h]
    rfl
  · simp only [hj, if_false]

theorem writeMsg_twice (s : State) (i : Nat) (v : Byte) (h : Memory.wf emptyByte s.msgbuf) :
    writeMsg (writeMsg s i v) i v = writeMsg s i v := by
  unfold writeMsg
  by_cases hi : i < Config.msgLen
  · simp only [hi, if_true, State.setMsgbuf_msgbuf, Memory.write_write _ _ _ _ h]
    rfl
  · simp only [hi, if_false]

theorem writeRegNumber_twice (s : State) (n : Nat) (w : Word) :
    writeRegNumber (writeRegNumber s n w) n w = writeRegNumber s n w := by
  unfold writeRegNumber
  split
  · next r _ => cases r <;> rfl
  · rfl

theorem resetEvent_twice (c : ResetContents) (s : State) :
    resetEvent c (resetEvent c s) = resetEvent c s := rfl

theorem effectOf_twice {s : State} (h : s.Inv) (e : Event) :
    effectOf (effectOf s e) e = effectOf s e := by
  cases e with
  | regWrite n w => exact writeRegNumber_twice s n w
  | busRegWrite offset bytes w => exact writeRegNumber_twice s _ w
  | fbWrite j v => simp only [effectOf, writeFb_cfg, writeFb_twice _ _ _ h.fb.1]
  | gammaWrite j v => simp only [effectOf, writeGamma_cfg, writeGamma_twice _ _ _ h.gamma.1]
  | msgWrite i v => exact writeMsg_twice s i _ h.msgbuf.1
  | reset c => exact resetEvent_twice c s
  | regRead _ | busRegRead _ _ | fbRead _ | sprRead _ _ | sprWrite _ _ _ | gammaRead _
  | msgRead _ => rfl

/-- Only a read is answered, and a read changes nothing (20_memory.md R76). -/
theorem effectOf_of_answerOf {s : State} {e : Event} {v : Word} (h : answerOf s e = some v) :
    effectOf s e = s := by
  cases e with
  | regRead _ | busRegRead _ _ | fbRead _ | sprRead _ _ | gammaRead _ | msgRead _ => rfl
  | regWrite _ _ | busRegWrite _ _ _ | fbWrite _ _ | sprWrite _ _ _ | gammaWrite _ _
  | msgWrite _ _ | reset _ => cases h

/-- An event's own effect does not change the answer to it: a read has none, and no other event is
answered. -/
theorem answerOf_effectOf (s : State) (e : Event) : answerOf (effectOf s e) e = answerOf s e := by
  cases e <;> rfl

theorem writeRegNumber_setAnswer (s : State) (u : Option Word) (n : Nat) (w : Word) :
    writeRegNumber (s.setAnswer u) n w = (writeRegNumber s n w).setAnswer u := by
  unfold writeRegNumber
  split
  · next r _ => cases r <;> rfl
  · rfl

theorem writeFb_setAnswer (s : State) (u : Option Word) (j : Nat) (v : Elem) :
    writeFb (s.setAnswer u) j v = (writeFb s j v).setAnswer u := by
  rw [writeFb, writeFb, apply_ite (State.setAnswer · u)]
  rfl

theorem writeGamma_setAnswer (s : State) (u : Option Word) (j : Nat) (v : Elem) :
    writeGamma (s.setAnswer u) j v = (writeGamma s j v).setAnswer u := by
  rw [writeGamma, writeGamma, apply_ite (State.setAnswer · u)]
  rfl

theorem writeMsg_setAnswer (s : State) (u : Option Word) (i : Nat) (v : Byte) :
    writeMsg (s.setAnswer u) i v = (writeMsg s i v).setAnswer u := by
  rw [writeMsg, writeMsg, apply_ite (State.setAnswer · u)]
  rfl

/-- No event depends on what the port answered to the one before. -/
theorem serve_setAnswer (s : State) (u : Option Word) (e : Event) :
    serve (s.setAnswer u) e = serve s e := by
  cases e with
  | regWrite n w => simp only [serve, effectOf, writeRegNumber_setAnswer]; rfl
  | busRegWrite offset bytes w => simp only [serve, effectOf, writeRegNumber_setAnswer]; rfl
  | fbWrite j v => simp only [serve, effectOf, writeFb_setAnswer]; rfl
  | gammaWrite j v => simp only [serve, effectOf, writeGamma_setAnswer]; rfl
  | msgWrite i v => simp only [serve, effectOf, writeMsg_setAnswer]; rfl
  | reset _ | regRead _ | busRegRead _ _ | fbRead _ | sprRead _ _ | sprWrite _ _ _ | gammaRead _
  | msgRead _ => rfl

/-- Settles O21: the effect done twice is the effect done once, and so is the answer. -/
theorem accessesAreIdempotent : Obligations.AccessesAreIdempotent := by
  refine ⟨fun s e v => effectOf_of_answerOf, fun s e h _ => ?_⟩
  calc serve (serve s e) e = serve (effectOf s e) e := serve_setAnswer _ _ _
    _ = (effectOf s e).setAnswer (answerOf s e) := by
      rw [serve, effectOf_twice h, answerOf_effectOf]

/-! ### What a write reads back as -/

theorem elemCW_truncCW (c : Config) (w : Word) : elemCW c (truncCW c w) = truncCW c w :=
  elemCW_of_le (truncCW_le c w)

section readBack

variable {s : State} (h : s.Inv)
include h

theorem readFb_fbWrite {j : Nat} (hj : j < s.cfg.fbCap) (v : Word) (i : Nat) :
    (readFb (effectOf s (.fbWrite j v)) i).toNat =
      if i = j then v.toNat % 2 ^ s.cfg.bits else (readFb s i).toNat := by
  simp only [effectOf, readFb_writeFb _ _ _ _ h.fb.1, hj, and_true, elemCW_truncCW,
    apply_ite BitVec.toNat, truncCW_toNat]

theorem readGamma_gammaWrite {j : Nat} (hj : j ≤ s.cfg.chMax) (v : Word) (i : Nat) :
    (readGamma (effectOf s (.gammaWrite j v)) i).toNat =
      if i = j then v.toNat % 2 ^ s.cfg.bits else (readGamma s i).toNat := by
  simp only [effectOf, readGamma_writeGamma _ _ _ _ h.gamma.1, hj, and_true, elemCW_truncCW,
    apply_ite BitVec.toNat, truncCW_toNat]

theorem readMsg_msgWrite {j : Nat} (hj : j < Config.msgLen) (v : Word) (i : Nat) :
    (readMsg (effectOf s (.msgWrite j v)) i).toNat =
      if i = j then v.toNat % 256 else (readMsg s i).toNat := by
  simp only [effectOf, readMsg_writeMsg _ _ _ _ h.msgbuf.1, hj, and_true,
    apply_ite BitVec.toNat, BitVec.toNat_setWidth]

end readBack

/-- Settles O24: the answers by their definitions, the frames of the writes, and each memory read
after a write. -/
theorem memoryWritesReadBack : Obligations.MemoryWritesReadBack := by
  refine fun s v => ⟨fun j _ => rfl, fun j _ => rfl, fun i _ => rfl,
    fun k hk => ⟨?_, ?_, ?_⟩, fun j => writeFb_frame s j _, fun j => writeGamma_frame s j _,
    fun i => writeMsg_frame s i _,
    fun h => ⟨fun j i hj => readFb_fbWrite h hj v i, fun j i hj => readGamma_gammaWrite h hj v i,
      fun j i hj => readMsg_msgWrite h hj v i⟩⟩
  all_goals exact congrArg some (readSpriteField_inRange s hk _)

end Sys2Proof.Machine

/-! Command words: a word is its operand bits above its opcode, and the operand bits are the fields
of one of the four formats (30_encoding.md R91 to R95). -/

namespace Sys2Proof.Machine

open Sys2Proof

/-! ### Words put together from fields -/

theorem append_eq_append_iff {m n : Nat} {a c : BitVec m} {b d : BitVec n} :
    a ++ b = c ++ d ↔ a = c ∧ b = d := by
  constructor
  · intro h
    have hhi := congrArg (BitVec.extractLsb' n m) h
    have hlo := congrArg (BitVec.extractLsb' 0 n) h
    rw [BitVec.extractLsb'_append_eq_left, BitVec.extractLsb'_append_eq_left] at hhi
    rw [BitVec.extractLsb'_append_eq_right, BitVec.extractLsb'_append_eq_right] at hlo
    exact ⟨hhi, hlo⟩
  · rintro ⟨rfl, rfl⟩
    rfl

/-- Two fields joined are a part of a word iff each is its part of it. -/
theorem append_eq_extractLsb'_iff {m n k start : Nat} {a : BitVec m} {b : BitVec n} {w : BitVec k} :
    a ++ b = w.extractLsb' start (m + n) ↔
      a = w.extractLsb' (start + n) m ∧ b = w.extractLsb' start n := by
  rw [← BitVec.extractLsb'_append_extractLsb'_eq_extractLsb' rfl, append_eq_append_iff]

/-- The word of a command is the one with its operand bits and its opcode. -/
theorem encode_eq_iff {i : Instr} {w : Word} :
    encode i = w ↔ operandBits i = w.extractLsb' 8 24 ∧ opcodeField w = opcodeOf i := by
  have h := append_eq_extractLsb'_iff (a := operandBits i) (b := opcodeOf i) (w := w) (start := 0)
  rw [BitVec.extractLsb'_eq_self] at h
  exact h.trans (and_congr_right' eq_comm)

/-! ### The operand bits of the formats -/

/-- Format X (30_encoding.md R93): an index below 8 zeros. -/
theorem operandBits_setPixel_eq_iff {w : Word} {idx : BitVec 16} :
    operandBits (.setPixel idx) = w.extractLsb' 8 24 ↔
      0#8 = w.extractLsb' 24 8 ∧ idx = idxField w :=
  append_eq_extractLsb'_iff

/-- Format S (30_encoding.md R94): a count below 13 zeros. -/
theorem operandBits_sprInit_eq_iff {w : Word} {n : BitVec 11} :
    operandBits (.sprInit n) = w.extractLsb' 8 24 ↔
      0#13 = w.extractLsb' 19 13 ∧ n = countField w :=
  append_eq_extractLsb'_iff

/-- Format C (30_encoding.md R95): 6 zeros, a protocol, 5 zeros and a length. -/
theorem operandBits_rendInit_eq_iff {w : Word} {len : BitVec 11} {proto : BitVec 2} :
    operandBits (.rendInit len proto) = w.extractLsb' 8 24 ↔
      ((0#6 = w.extractLsb' 26 6 ∧ proto = protoField w) ∧ 0#5 = w.extractLsb' 19 5) ∧
        len = countField w :=
  append_eq_extractLsb'_iff.trans <| and_congr_left' <|
    append_eq_extractLsb'_iff.trans <| and_congr_left' append_eq_extractLsb'_iff

/-- The one ill-formed command is REND_INIT with `proto` = 3 (30_encoding.md R95). -/
theorem wf_rendInit_iff {len : BitVec 11} {proto : BitVec 2} :
    (Instr.rendInit len proto).WF ↔ proto ≠ 3#2 :=
  bne_iff_ne

/-! ### The decoders of the formats -/

theorem decodeN_eq_ok_iff {w : Word} {i j : Instr} :
    decodeN w i = .ok j ↔ 0#24 = w.extractLsb' 8 24 ∧ j = i := by
  unfold decodeN
  split <;> simp_all [eq_comm]

theorem decodeX_eq_ok_iff {w : Word} {j : Instr} :
    decodeX w = .ok j ↔
      ∃ idx, operandBits (.setPixel idx) = w.extractLsb' 8 24 ∧ j = .setPixel idx := by
  simp only [decodeX, operandBits_setPixel_eq_iff]
  split <;> simp_all [eq_comm]

theorem decodeS_eq_ok_iff {w : Word} {j : Instr} :
    decodeS w = .ok j ↔
      ∃ n, operandBits (.sprInit n) = w.extractLsb' 8 24 ∧ j = .sprInit n := by
  simp only [decodeS, operandBits_sprInit_eq_iff]
  split <;> simp_all [eq_comm]

/-- Format C alone has a second check: `proto` = 3 is reserved. -/
theorem decodeC_eq_ok_iff {w : Word} {j : Instr} :
    decodeC w = .ok j ↔ ∃ len proto, operandBits (.rendInit len proto) = w.extractLsb' 8 24 ∧
      (Instr.rendInit len proto).WF ∧ j = .rendInit len proto := by
  simp only [decodeC, operandBits_rendInit_eq_iff, wf_rendInit_iff]
  split_ifs <;> simp_all [eq_comm]

/-! ### The round trips -/

/-- Settles O1: the opcode selects the format, and the format reads the operand bits back. -/
theorem decodeInvertsEncode : Obligations.DecodeInvertsEncode := by
  intro i hwf
  obtain ⟨hop, hbits⟩ : Laws.WordFields.Statement i := Laws.fields_append _ _
  unfold decode
  rw [hop]
  cases i with
  | setPixel idx => exact decodeX_eq_ok_iff.2 ⟨idx, hbits.symm, rfl⟩
  | sprInit n => exact decodeS_eq_ok_iff.2 ⟨n, hbits.symm, rfl⟩
  | rendInit len proto => exact decodeC_eq_ok_iff.2 ⟨len, proto, hbits.symm, hwf, rfl⟩
  | _ => exact decodeN_eq_ok_iff.2 ⟨hbits.symm, rfl⟩

/-- A word of format N is the word of the command its opcode selects. -/
theorem wf_and_encode_of_decodeN {w : Word} {i j : Instr} (hbits : operandBits i = 0#24)
    (hwf : i.WF) (hop : opcodeField w = opcodeOf i) (h : decodeN w i = .ok j) :
    j.WF ∧ encode j = w := by
  obtain ⟨hzero, rfl⟩ := decodeN_eq_ok_iff.1 h
  exact ⟨hwf, encode_eq_iff.2 ⟨hbits.trans hzero, hop⟩⟩

/-- Settles O2, opcode by opcode: the opcode and the operand bits that the format has checked are
the whole word. -/
theorem decodedWordIsItsEncoding : Obligations.DecodedWordIsItsEncoding := by
  intro w j h
  unfold decode at h
  split at h
  -- the rows of SET_PIXEL, SPR_INIT and REND_INIT and the reserved opcodes; the rest is format N
  case h_6 hop =>
    obtain ⟨idx, hbits, rfl⟩ := decodeX_eq_ok_iff.1 h
    exact ⟨rfl, encode_eq_iff.2 ⟨hbits, hop⟩⟩
  case h_13 hop =>
    obtain ⟨n, hbits, rfl⟩ := decodeS_eq_ok_iff.1 h
    exact ⟨rfl, encode_eq_iff.2 ⟨hbits, hop⟩⟩
  case h_15 hop =>
    obtain ⟨len, proto, hbits, hwf, rfl⟩ := decodeC_eq_ok_iff.1 h
    exact ⟨hwf, encode_eq_iff.2 ⟨hbits, hop⟩⟩
  case h_18 => cases h
  all_goals exact wf_and_encode_of_decodeN rfl rfl ‹_› h

theorem decode_eq_ok_iff {w : Word} {i : Instr} : decode w = .ok i ↔ i.WF ∧ encode i = w :=
  ⟨decodedWordIsItsEncoding w i, fun ⟨hwf, hw⟩ => hw ▸ decodeInvertsEncode i hwf⟩

end Sys2Proof.Machine

/-! The opcode map by mask and match: its rows are the words of the commands
(30_encoding.md R98, R99). -/

namespace Sys2Proof.Machine

open Sys2Proof

/-! ### Masks field by field -/

/-- A masked part of a word is compared field by field. -/
theorem extractLsb'_and_append_eq_iff {m n k start : Nat} {w : BitVec k} {a c : BitVec m}
    {b d : BitVec n} :
    w.extractLsb' start (m + n) &&& (a ++ b) = c ++ d ↔
      w.extractLsb' (start + n) m &&& a = c ∧ w.extractLsb' start n &&& b = d := by
  rw [← BitVec.extractLsb'_append_extractLsb'_eq_extractLsb' rfl, BitVec.and_append,
    append_eq_append_iff]

/-- Ones above zeros mask the high field of a part of a word. -/
theorem extractLsb'_and_ones_append_zeros_iff {m n k start : Nat} {w : BitVec k} :
    w.extractLsb' start (m + n) &&& (BitVec.allOnes m ++ 0#n) = 0#m ++ 0#n ↔
      0#m = w.extractLsb' (start + n) m := by
  rw [extractLsb'_and_append_eq_iff, BitVec.and_allOnes, BitVec.and_zero, eq_comm]
  exact and_iff_left rfl

/-- A mask that covers the opcode asks for that opcode and for the masked operand bits. -/
theorem and_append_ones_eq_iff {w : Word} (mask bits : BitVec 24) (op : BitVec 8) :
    w &&& (mask ++ BitVec.allOnes 8) = bits ++ op ↔
      w.extractLsb' 8 24 &&& mask = bits ∧ opcodeField w = op := by
  have h := extractLsb'_and_append_eq_iff (w := w) (a := mask) (b := BitVec.allOnes 8) (c := bits)
    (d := op) (start := 0)
  rwa [BitVec.extractLsb'_eq_self, BitVec.and_allOnes] at h

/-! ### The rows -/

/-- The row of SET_PIXEL asks for the zeros of format X. -/
theorem setPixelRow_iff {w : Word} :
    w &&& 0xFF0000FF#32 = 0x08#32 ↔ ∃ idx, encode (.setPixel idx) = w := by
  have hmask : w &&& 0xFF0000FF#32 = 0x08#32 ↔
      0#8 = w.extractLsb' 24 8 ∧ opcodeField w = 0x08#8 :=
    (and_append_ones_eq_iff (BitVec.allOnes 8 ++ 0#16) (0#8 ++ 0#16) 0x08#8).trans
      (and_congr_left' (extractLsb'_and_ones_append_zeros_iff (n := 16)))
  simp [hmask, encode_eq_iff, operandBits_setPixel_eq_iff, opcodeOf]

/-- The row of SPR_INIT asks for the zeros of format S. -/
theorem sprInitRow_iff {w : Word} :
    w &&& 0xFFF800FF#32 = 0x20#32 ↔ ∃ n, encode (.sprInit n) = w := by
  have hmask : w &&& 0xFFF800FF#32 = 0x20#32 ↔
      0#13 = w.extractLsb' 19 13 ∧ opcodeField w = 0x20#8 :=
    (and_append_ones_eq_iff (BitVec.allOnes 13 ++ 0#11) (0#13 ++ 0#11) 0x20#8).trans
      (and_congr_left' (extractLsb'_and_ones_append_zeros_iff (n := 11)))
  simp [hmask, encode_eq_iff, operandBits_sprInit_eq_iff, opcodeOf]

/-- The row of REND_INIT asks for the zeros of format C and leaves `proto` open. -/
theorem rendInitRow_iff {w : Word} :
    w &&& 0xFCF800FF#32 = 0x28#32 ↔ ∃ len proto, encode (.rendInit len proto) = w := by
  have hproto : w.extractLsb' 24 8 &&& (BitVec.allOnes 6 ++ 0#2) = 0#6 ++ 0#2 ↔
      0#6 = w.extractLsb' 26 6 :=
    extractLsb'_and_ones_append_zeros_iff (n := 2)
  have hupper : w.extractLsb' 19 13 &&& (BitVec.allOnes 6 ++ 0#2 ++ BitVec.allOnes 5) =
      0#6 ++ 0#2 ++ 0#5 ↔ 0#6 = w.extractLsb' 26 6 ∧ 0#5 = w.extractLsb' 19 5 := by
    refine (extractLsb'_and_append_eq_iff (n := 5)).trans (and_congr hproto ?_)
    rw [BitVec.and_allOnes, eq_comm]
  have hbits : w.extractLsb' 8 24 &&& (BitVec.allOnes 6 ++ 0#2 ++ BitVec.allOnes 5 ++ 0#11) =
      0#6 ++ 0#2 ++ 0#5 ++ 0#11 ↔ 0#6 = w.extractLsb' 26 6 ∧ 0#5 = w.extractLsb' 19 5 :=
    (extractLsb'_and_append_eq_iff (n := 11)).trans
      ((and_iff_left BitVec.and_zero).trans hupper)
  have hmask : w &&& 0xFCF800FF#32 = 0x28#32 ↔
      (0#6 = w.extractLsb' 26 6 ∧ 0#5 = w.extractLsb' 19 5) ∧ opcodeField w = 0x28#8 :=
    (and_append_ones_eq_iff (BitVec.allOnes 6 ++ 0#2 ++ BitVec.allOnes 5 ++ 0#11)
      (0#6 ++ 0#2 ++ 0#5 ++ 0#11) 0x28#8).trans (and_congr_left' hbits)
  simp [hmask, encode_eq_iff, operandBits_rendInit_eq_iff, opcodeOf]

/-- A command without operands has a row of its own, the one with its word; so the rows match the
words of all commands, the ill-formed REND_INIT included. -/
theorem matchesSomeRow_iff {w : Word} :
    (∃ row ∈ opcodeRows, w &&& row.1 = row.2) ↔ ∃ i, encode i = w := by
  constructor
  · have hfull : w &&& 0xFFFFFFFF#32 = w := BitVec.and_allOnes
    simp only [opcodeRows, List.exists_mem_cons_iff, hfull, setPixelRow_iff, sprInitRow_iff,
      rendInitRow_iff, List.not_mem_nil, false_and, exists_false, or_false]
    rintro (h | h | h | h | h | ⟨idx, h⟩ | h | h | h | h | h | h | ⟨n, h⟩ | h | ⟨len, proto, h⟩ |
      h | h)
    exacts [⟨.allOff, h.symm⟩, ⟨.fillGradient, h.symm⟩, ⟨.fillGradientDual, h.symm⟩,
      ⟨.fillTriangle, h.symm⟩, ⟨.fillRandom, h.symm⟩, ⟨.setPixel idx, h⟩, ⟨.hsv2rgb, h.symm⟩,
      ⟨.hsvInterp, h.symm⟩, ⟨.scale, h.symm⟩, ⟨.mapRange, h.symm⟩, ⟨.lcgNext, h.symm⟩,
      ⟨.lcgNextF, h.symm⟩, ⟨.sprInit n, h⟩, ⟨.sprTick, h.symm⟩, ⟨.rendInit len proto, h⟩,
      ⟨.msgLoad, h.symm⟩, ⟨.frameTick, h.symm⟩]
  · rintro ⟨i, rfl⟩
    cases i with
    | setPixel idx => exact ⟨(0xFF0000FF#32, 0x08#32), by decide, setPixelRow_iff.2 ⟨idx, rfl⟩⟩
    | sprInit n => exact ⟨(0xFFF800FF#32, 0x20#32), by decide, sprInitRow_iff.2 ⟨n, rfl⟩⟩
    | rendInit len proto =>
      exact ⟨(0xFCF800FF#32, 0x28#32), by decide, rendInitRow_iff.2 ⟨len, proto, rfl⟩⟩
    | _ => decide

/-! ### The reserved protocol -/

theorem rendInit_protoMask_iff {len : BitVec 11} {proto : BitVec 2} :
    encode (.rendInit len proto) &&& 0x03000000#32 = 0x03000000#32 ↔ proto = 3#2 := by
  change (0#6 ++ proto ++ 0#5 ++ len ++ 0x28#8) &&&
    (0#6 ++ BitVec.allOnes 2 ++ 0#5 ++ 0#11 ++ 0#8) = 0#6 ++ 3#2 ++ 0#5 ++ 0#11 ++ 0#8 ↔ _
  simp only [BitVec.and_append, BitVec.and_allOnes, BitVec.and_zero, append_eq_append_iff,
    true_and, and_true]

theorem opcodeOf_eq_of_encode_eq {i j : Instr} (h : encode i = encode j) :
    opcodeOf i = opcodeOf j :=
  (encode_eq_iff.1 rfl).2.symm.trans (encode_eq_iff.1 h.symm).2

/-- The words with the reserved `proto` are those of the ill-formed commands. -/
theorem reservedProto_iff {i : Instr} :
    (encode i &&& 0xFCF800FF#32 = 0x28#32 ∧ encode i &&& 0x03000000#32 = 0x03000000#32) ↔
      ¬ i.WF := by
  cases i with
  | rendInit len proto =>
    rw [and_iff_right (rendInitRow_iff.2 ⟨len, proto, rfl⟩), rendInit_protoMask_iff,
      wf_rendInit_iff, not_not]
  | _ =>
    refine iff_of_false (fun ⟨hrow, _⟩ => ?_) (not_not_intro rfl)
    obtain ⟨len, proto, h⟩ := rendInitRow_iff.1 hrow
    exact absurd (opcodeOf_eq_of_encode_eq h) (by simp [opcodeOf])

/-- Settles O3: the decoder accepts the words of the well-formed commands, the rows match those of
all commands, and the exclusion takes the ill-formed ones away. -/
theorem decodeAgreesWithMaskAndMatch : Obligations.DecodeAgreesWithMaskAndMatch := by
  intro w
  constructor
  · rintro ⟨i, h⟩
    obtain ⟨hwf, rfl⟩ := decode_eq_ok_iff.1 h
    exact ⟨matchesSomeRow_iff.2 ⟨i, rfl⟩, fun hproto => reservedProto_iff.1 hproto hwf⟩
  · rintro ⟨hrow, hproto⟩
    obtain ⟨i, rfl⟩ := matchesSomeRow_iff.1 hrow
    exact ⟨i, decodeInvertsEncode i (not_not.1 (mt reservedProto_iff.2 hproto))⟩

end Sys2Proof.Machine

/-! Words that spell no command: the reserved opcodes, the illegal examples, and what the block does
with such a word (30_encoding.md R99, R100, R106). -/

namespace Sys2Proof.Machine

open Sys2Proof

/-- The opcodes of the opcode map (30_encoding.md R96). -/
theorem opcodeOf_toNat_mem (i : Instr) :
    (opcodeOf i).toNat ∈ [0x00, 0x01, 0x02, 0x03, 0x04, 0x08, 0x10, 0x11, 0x12, 0x13, 0x18, 0x19,
      0x20, 0x21, 0x28, 0x29, 0x2A] := by
  cases i <;> simp [opcodeOf]

theorem decode_eq_error_iff {w : Word} : (∃ r, decode w = .error r) ↔ ∀ i, decode w ≠ .ok i := by
  cases decode w <;> simp

/-- Settles O4: a word that decodes has the opcode of its command, which is none of the reserved
ones, and it is that command's word. -/
theorem reservedOpcodesAreIllegal : Obligations.ReservedOpcodesAreIllegal := by
  refine ⟨fun w hres => decode_eq_error_iff.2 fun i h => ?_, fun w w' i h h' => ?_⟩
  · have hmem := opcodeOf_toNat_mem i
    rw [← (encode_eq_iff.1 (decode_eq_ok_iff.1 h).2).2] at hmem
    simp only [List.mem_cons, List.not_mem_nil, or_false] at hmem
    omega
  · exact (decode_eq_ok_iff.1 h).2.symm.trans (decode_eq_ok_iff.1 h').2

/-- Settles O5: the commands of the worked words are well-formed and have those words, so the
decoder gives them back. -/
theorem workedEncodings : Obligations.WorkedEncodings := by
  constructor
  · intro p hp
    have hword : p.2.WF ∧ encode p.2 = p.1 := by
      revert p
      decide
    exact ⟨decode_eq_ok_iff.2 hword, hword.2⟩
  · intro w hw
    simp only [List.mem_cons, List.not_mem_nil, or_false] at hw
    rcases hw with rfl | rfl | rfl | rfl | rfl
    exacts [⟨.reservedOpcode, rfl⟩, ⟨.reservedBits, rfl⟩, ⟨.reservedBits, rfl⟩,
      ⟨.reservedProto, rfl⟩, ⟨.reservedBits, rfl⟩]

/-- A word that spells no command is the illegal command, whatever the state. -/
theorem runCommand_of_not_spellsCommand {w : Word} (h : ¬ spellsCommand w) (s : State) :
    runCommand w s = .next (illegalCommand s) := by
  obtain ⟨r, hr⟩ := decode_eq_error_iff.2 fun i hi =>
    h ((decodeAgreesWithMaskAndMatch w).1 ⟨i, hi⟩)
  simp only [runCommand, hr]

/-- Settles O8: both writes have the word as their command word, and the word spells no command. -/
theorem illegalWordOnlySetsIll : Obligations.IllegalWordOnlySetsIll := by
  rintro s w rest (hp | hp) hw
  · exact (step_commandWord hp rfl).trans (runCommand_of_not_spellsCommand hw _)
  · exact (step_commandWord hp rfl).trans (runCommand_of_not_spellsCommand hw _)

/-- Settles O9: 3 is the tag of no protocol. -/
theorem reservedProtoOnlySetsIll : Obligations.ReservedProtoOnlySetsIll := by
  intro s len
  have hnone : protoOperand 3#2 = none := rfl
  change execRendInit len 3#2 s = .next (illegalCommand s)
  rw [execRendInit, hnone]

end Sys2Proof.Machine

/-! The scale and map_range unit: what `scaleValue` and `mapPct` give at the ends of their ranges,
that they are monotone, and the two commands on top of them (40_scale_map.md R121 to R126). -/

namespace Sys2Proof.Machine

open Sys2Proof

section unit

variable {c : Config} {v v' f f' i i' m o : Nat}

/-! ### scale -/

theorem scaleValue_eq_shiftRight :
    scaleValue c v f = (v * (min f c.chMax + 1)) >>> c.bits := (Nat.shiftRight_eq_div_pow ..).symm

/-- The "+1" of R121 at work: from `MAX` on the factor is `2^BITS`, which the shift undoes. -/
theorem scaleValue_of_chMax_le (h : c.chMax ≤ f) : scaleValue c v f = v := by
  rw [scaleValue, min_eq_right h, chMax_lt, Nat.mul_div_cancel _ (Nat.two_pow_pos _)]

theorem scaleValue_factor_zero : scaleValue c v 0 = v >>> c.bits := by
  rw [scaleValue_eq_shiftRight, Nat.zero_min, Nat.zero_add, Nat.mul_one]

theorem scaleValue_value_zero : scaleValue c 0 f = 0 := by
  rw [scaleValue, Nat.zero_mul, Nat.zero_div]

theorem scaleValue_mono (hv : v ≤ v') (hf : f ≤ f') : scaleValue c v f ≤ scaleValue c v' f' :=
  Nat.div_le_div_right (Nat.mul_le_mul hv (Nat.succ_le_succ (min_le_min_right _ hf)))

/-- Raising the factor to `MAX` can only raise the result, and there it is the value itself. -/
theorem scaleValue_le : scaleValue c v f ≤ v :=
  calc scaleValue c v f ≤ scaleValue c v (max f c.chMax) := scaleValue_mono le_rfl (le_max_left ..)
    _ = v := scaleValue_of_chMax_le (le_max_right ..)

/-! ### The percentage -/

theorem mapPct_of_pos (hm : 0 < m) : mapPct c i m = min i m * c.chMax / m := if_neg hm.ne'

@[simp] theorem mapPct_max_zero : mapPct c i 0 = 0 := if_pos rfl

@[simp] theorem mapPct_input_zero : mapPct c 0 m = 0 := by simp [mapPct]

theorem mapPct_of_max_le (hm : 0 < m) (h : m ≤ i) : mapPct c i m = c.chMax := by
  rw [mapPct_of_pos hm, min_eq_right h, Nat.mul_div_cancel_left _ hm]

theorem mapPct_mono (h : i ≤ i') : mapPct c i m ≤ mapPct c i' m := by
  rcases m.eq_zero_or_pos with rfl | hm
  · rw [mapPct_max_zero]
    exact Nat.zero_le _
  · rw [mapPct_of_pos hm, mapPct_of_pos hm]
    exact Nat.div_le_div_right (Nat.mul_le_mul_right _ (min_le_min_right _ h))

theorem mapPct_le_chMax (hm : 0 < m) : mapPct c i m ≤ c.chMax :=
  calc mapPct c i m ≤ mapPct c (max i m) m := mapPct_mono (le_max_left ..)
    _ = c.chMax := mapPct_of_max_le hm (le_max_right ..)

theorem mapPct_min : mapPct c (min i m) m = mapPct c i m := by
  rw [mapPct, mapPct, min_assoc, min_self]

/-! ### map_range -/

/-- The percentage is at most `MAX`, so the clamp of `scale` does not show (R122). -/
theorem mapRangeValue_of_pos (hm : 0 < m) :
    mapRangeValue c i m o = (o * (min i m * c.chMax / m + 1)) >>> c.bits := by
  rw [mapRangeValue, scaleValue_eq_shiftRight, min_eq_left (mapPct_le_chMax hm), mapPct_of_pos hm]

theorem mapRangeValue_of_max_le (hm : 0 < m) (h : m ≤ i) : mapRangeValue c i m o = o :=
  scaleValue_of_chMax_le (mapPct_of_max_le hm h).ge

theorem mapRangeValue_max_zero : mapRangeValue c i 0 o = o >>> c.bits := by
  rw [mapRangeValue, mapPct_max_zero, scaleValue_factor_zero]

theorem mapRangeValue_input_zero : mapRangeValue c 0 m o = o >>> c.bits := by
  rw [mapRangeValue, mapPct_input_zero, scaleValue_factor_zero]

end unit

/-- Settles O33: the laws of `scale` are those of its product, and `map_range` has them through its
percentage. -/
theorem scaleAndMapRangeLaws : Obligations.ScaleAndMapRangeLaws := by
  intro c
  refine ⟨fun v => ?a, fun v f => ?b, fun v v' f f' hv hf => ?c, fun i m o hm h => ?d,
    fun i i' m o h => ?e, fun m o ho => ?f, fun i m o => ?g⟩
  case a => exact scaleValue_of_chMax_le le_rfl
  case b => exact scaleValue_le
  case c => exact scaleValue_mono hv hf
  case d => exact mapRangeValue_of_max_le hm h
  case e => exact scaleValue_mono le_rfl (mapPct_mono h)
  case f => rw [mapRangeValue_input_zero, Nat.shiftRight_eq_div_pow, Nat.div_eq_of_lt ho]
  case g => rw [mapRangeValue, mapRangeValue, mapPct_min]

/-! ### The commands -/

/-- `XR` holds the result in full, for it does not exceed the 32-bit value (R121, R125). -/
theorem toNat_ofNat_scaleValue (c : Config) (x : Word) (f : Nat) :
    (BitVec.ofNat 32 (scaleValue c x.toNat f)).toNat = scaleValue c x.toNat f :=
  (BitVec.toNat_ofNat ..).trans (Nat.mod_eq_of_lt (scaleValue_le.trans_lt x.isLt))

theorem exec_scale (s : State) : exec .scale s =
    .next (s.setXr (BitVec.ofNat 32 (scaleValue s.cfg s.x0.toNat s.x1.toNat))) := rfl

theorem exec_mapRange (s : State) : exec .mapRange s =
    .next (s.setXr (BitVec.ofNat 32
      (scaleValue s.cfg s.x2.toNat (mapPct s.cfg s.x0.toNat s.x1.toNat)))) := rfl

/-- What SCALE and MAP_RANGE share: the answer differs in `XR` alone, and `XR` is a `scale` of a
register that nothing is lost of. -/
theorem exists_next_setXr_scaleValue {instr : Instr} {s : State} {x : Word} {f : Nat}
    (h : exec instr s = .next (s.setXr (BitVec.ofNat 32 (scaleValue s.cfg x.toNat f)))) :
    ∃ t, exec instr s = .next t ∧ t = s.setXr t.xr ∧ t.xr.toNat = scaleValue s.cfg x.toNat f :=
  ⟨_, h, rfl, toNat_ofNat_scaleValue ..⟩

/-- Settles O31: SCALE writes `scaleValue` to `XR`, and the corner cases are those of `scaleValue`. -/
theorem scaleComputesExactProduct : Obligations.ScaleComputesExactProduct := by
  intro s
  obtain ⟨t, hexec, hframe, hxr⟩ := exists_next_setXr_scaleValue (exec_scale s)
  refine ⟨t, hexec, hframe, ?product, fun hmax => ?identity, fun h0 => ?factorZero,
    fun h0 => ?valueZero⟩
  case product => exact hxr.trans scaleValue_eq_shiftRight
  case identity => exact BitVec.eq_of_toNat_eq (hxr.trans (scaleValue_of_chMax_le hmax))
  case factorZero => rw [hxr, h0, scaleValue_factor_zero]
  case valueZero => rw [hxr, h0, scaleValue_value_zero]

/-- Settles O32: MAP_RANGE writes `mapRangeValue` to `XR`, which is a `scaleValue` of `X2`. -/
theorem mapRangeComputesPercentage : Obligations.MapRangeComputesPercentage := by
  intro s
  obtain ⟨t, hexec, hframe, hxr⟩ := exists_next_setXr_scaleValue (exec_mapRange s)
  change t.xr.toNat = mapRangeValue s.cfg s.x0.toNat s.x1.toNat s.x2.toNat at hxr
  refine ⟨t, hexec, hframe, fun hpos => ?percentage, fun h0 => ?maxZero, fun hpos hle => ?identity,
    fun h0 => ?inputZero⟩
  case percentage => exact hxr.trans (mapRangeValue_of_pos hpos)
  case maxZero => rw [hxr, h0, mapRangeValue_max_zero]
  case identity => exact BitVec.eq_of_toNat_eq (hxr.trans (mapRangeValue_of_max_le hpos hle))
  case inputZero => rw [hxr, h0, mapRangeValue_input_zero]

end Sys2Proof.Machine

/-! The generator: one step modulo powers of two, its full period there, the draw as a float in
range, the two commands, and what leaves `SEED` alone (41_lcg.md R132 to R139). -/

namespace Sys2Proof.Machine

open Sys2Proof

/-! ### One step -/

theorem lcgStep_eq (a : Nat) : lcgStep a = (a * 1103515245 + 12345) % 2 ^ 31 := rfl

/-- A step keeps `a` to any modulus that `LCG_M` is a multiple of (R136). -/
theorem lcgStep_modEq {n : Nat} (hn : n ∣ 2 ^ 31) (a : Nat) :
    lcgStep a ≡ a * Config.lcgA + Config.lcgC [MOD n] :=
  (Nat.mod_modEq (a * Config.lcgA + Config.lcgC) (2 ^ 31)).of_dvd hn

theorem lcgStep_congr {a b : Nat} (h : a ≡ b [MOD 2 ^ 31]) : lcgStep a = lcgStep b :=
  (h.mul_right Config.lcgA).add_right Config.lcgC

theorem lcgStep_iterate_congr {a b : Nat} (h : a ≡ b [MOD 2 ^ 31]) (k : Nat) :
    lcgStep^[k + 1] a = lcgStep^[k + 1] b := by
  rw [Function.iterate_succ_apply, Function.iterate_succ_apply, lcgStep_congr h]

/-- The operands, the product and the sum may be cut to any number of bits from 31 on (R136). -/
theorem lcgStep_eq_wrapped {w : Nat} (hw : 31 ≤ w) (a : Nat) :
    lcgStep a = (a % 2 ^ w * Config.lcgA + Config.lcgC) % 2 ^ w % 2 ^ 31 := by
  have hdvd : 2 ^ 31 ∣ 2 ^ w := pow_dvd_pow 2 hw
  rw [Nat.mod_mod_of_dvd _ hdvd]
  exact lcgStep_congr ((Nat.mod_modEq a (2 ^ w)).of_dvd hdvd).symm

/-- Settles O36: the seed enters a step through its residue modulo `2^31` alone. -/
theorem onlyLowSeedBitsMatter : Obligations.OnlyLowSeedBitsMatter := by
  refine ⟨fun a b k h => lcgStep_iterate_congr h k,
    fun a => ⟨lcgStep_eq_wrapped (by decide) a, lcgStep_eq_wrapped (by decide) a⟩,
    fun s t h => ⟨?draw, ?next⟩, by decide, by decide, by decide, by decide⟩
  case draw => exact congrArg drawOfSeed (lcgStep_congr h)
  case next => rw [(genNext_seed s).1, (genNext_seed t).1, lcgStep_congr h]

/-! ### The period of the low bits

Modulo `2^(m+1)` the step is the map `x ↦ x * a + c` with `a` of the form `1 + 4p` and `c` odd. -/

/-- The affine map `x ↦ x * a + c`, which a step of the generator is to a small modulus. -/
def affineStep {R : Type} [CommSemiring R] (a c x : R) : R := x * a + c

/-- Where `a` is `1 + 4p` and `c` is odd, `2^j` steps are again an affine map of the kind, with a
factor nearer to 1 and an increment that is an odd multiple of `2^j`. -/
theorem affineStep_iterate_two_pow {R : Type} [CommSemiring R] (p q : R) (j : Nat) :
    ∃ p' q' : R, ∀ x, (affineStep (1 + 4 * p) (2 * q + 1))^[2 ^ j] x =
      affineStep (1 + 4 * (2 ^ j * p')) (2 ^ j * (2 * q' + 1)) x := by
  induction j with
  | zero => exact ⟨p, q, fun x => by simp⟩
  | succ j ih =>
    obtain ⟨p', q', h⟩ := ih
    refine ⟨p' + 2 * 2 ^ j * p' ^ 2, q' + 2 ^ j * p' * (2 * q' + 1), fun x => ?_⟩
    rw [pow_succ, Nat.mul_two, Function.iterate_add_apply, h, h]
    unfold affineStep
    ring

/-- The full-period condition for a modulus that is a power of two (R138): every residue comes back
after `2^(m+1)` steps, and not after `2^m`, which add `2^m` to it up to multiples of `2^(m+1)`. -/
theorem affineStep_minimalPeriod (m : Nat) (p q x : ZMod (2 ^ (m + 1))) :
    Function.minimalPeriod (affineStep (1 + 4 * p) (2 * q + 1)) x = 2 ^ (m + 1) := by
  have hzero : (2 : ZMod (2 ^ (m + 1))) ^ (m + 1) = 0 := by
    exact_mod_cast ZMod.natCast_self (2 ^ (m + 1))
  have hhalf : (2 : ZMod (2 ^ (m + 1))) ^ m ≠ 0 := by
    have hndvd : ¬ 2 ^ (m + 1) ∣ 2 ^ m := fun h => by
      have := (Nat.pow_dvd_pow_iff_le_right (by decide)).1 h
      omega
    exact_mod_cast (ZMod.natCast_eq_zero_iff (2 ^ m) _).not.2 hndvd
  refine Function.minimalPeriod_eq_prime_pow (fun h => hhalf ?_) ?_
  · obtain ⟨p', q', hiter⟩ := affineStep_iterate_two_pow p q m
    have hx : affineStep (1 + 4 * (2 ^ m * p')) (2 ^ m * (2 * q' + 1)) x = x :=
      (hiter x).symm.trans h
    have hsplit : affineStep (1 + 4 * (2 ^ m * p')) (2 ^ m * (2 * q' + 1)) x =
        x + 2 ^ m + 2 ^ (m + 1) * (2 * p' * x + q') := by
      unfold affineStep
      ring
    rw [hsplit, hzero, zero_mul, add_zero] at hx
    exact left_eq_add.1 hx.symm
  · obtain ⟨p', q', hiter⟩ := affineStep_iterate_two_pow p q (m + 1)
    refine (hiter x).trans ?_
    rw [hzero]
    simp [affineStep]

/-- A period as long as the type is large passes through everything in it. -/
theorem exists_iterate_eq_of_minimalPeriod {α : Type} [Fintype α] {f : α → α} {x : α}
    (h : Function.minimalPeriod f (f x) = Fintype.card α) (y : α) :
    ∃ k, 0 < k ∧ k ≤ Fintype.card α ∧ f^[k] x = y := by
  have hinj : Set.InjOn (f^[·] (f x)) (Finset.range (Fintype.card α)) := by
    rw [Finset.coe_range, ← h]
    exact Function.iterate_injOn_Iio_minimalPeriod
  have hsurj := Finset.surjOn_of_injOn_of_card_le (t := Finset.univ) _
    (fun _ _ => Finset.mem_coe.2 (Finset.mem_univ _)) hinj (Finset.card_range _).ge
  obtain ⟨k, hk, hy⟩ := hsurj (Finset.mem_coe.2 (Finset.mem_univ y))
  exact ⟨k + 1, Nat.succ_pos k, Finset.mem_range.1 hk, hy⟩

/-! ### The low byte -/

/-- The step on the low byte: `LCG_A` is `1 + 4p` and `LCG_C` is odd (R138). -/
def byteStep : ZMod (2 ^ 8) → ZMod (2 ^ 8) := affineStep (1 + 4 * 275878811) (2 * 6172 + 1)

theorem byteStep_natCast (a : Nat) : byteStep a = (lcgStep a : ZMod (2 ^ 8)) := by
  have h := (ZMod.natCast_eq_natCast_iff _ _ _).2 (lcgStep_modEq (n := 2 ^ 8) (by decide) a)
  rw [h]
  simp only [byteStep, affineStep, Config.lcgA, Config.lcgC]
  push_cast
  ring

theorem byteStep_minimalPeriod (x : ZMod (2 ^ 8)) : Function.minimalPeriod byteStep x = 256 :=
  affineStep_minimalPeriod 7 _ _ x

theorem byteStep_iterate_natCast (k a : Nat) :
    byteStep^[k] a = (lcgStep^[k] a : ZMod (2 ^ 8)) :=
  have hsemi : Function.Semiconj (Nat.cast (R := ZMod (2 ^ 8))) lcgStep byteStep :=
    fun a => (byteStep_natCast a).symm
  (hsemi.iterate_right k a).symm

/-- The low byte returns after the multiples of 256 steps only. -/
theorem lcgStep_iterate_mod_eq_iff (seed k : Nat) :
    lcgStep^[k] seed % 256 = seed % 256 ↔ 256 ∣ k :=
  calc lcgStep^[k] seed % 256 = seed % 256
      ↔ (lcgStep^[k] seed : ZMod (2 ^ 8)) = seed := (ZMod.natCast_eq_natCast_iff' _ _ _).symm
    _ ↔ Function.IsPeriodicPt byteStep k seed := by rw [← byteStep_iterate_natCast]; rfl
    _ ↔ Function.minimalPeriod byteStep seed ∣ k := Function.isPeriodicPt_iff_minimalPeriod_dvd
    _ ↔ 256 ∣ k := by rw [byteStep_minimalPeriod]

theorem drawOfSeed_congr {a b : Nat} (h : a % 256 = b % 256) : drawOfSeed a = drawOfSeed b := by
  unfold drawOfSeed
  rw [h]

/-- Settles O37: modulo 256 the step has the full period, and the draw sees the low byte alone. -/
theorem lowByteHasPeriod256 : Obligations.LowByteHasPeriod256 := by
  refine ⟨lcgStep_iterate_mod_eq_iff, fun seed k _ => ?draws, fun seed b hb => ?everyByte⟩
  case draws =>
    rw [Nat.add_comm, Function.iterate_add_apply]
    exact drawOfSeed_congr ((lcgStep_iterate_mod_eq_iff _ 256).2 dvd_rfl)
  case everyByte =>
    obtain ⟨k, hpos, hle, hk⟩ := exists_iterate_eq_of_minimalPeriod
      ((byteStep_minimalPeriod _).trans (ZMod.card (2 ^ 8)).symm) (b : ZMod (2 ^ 8))
    refine ⟨k, hpos, hle.trans (ZMod.card (2 ^ 8)).le, ?_⟩
    have hbyte := (byteStep_iterate_natCast k seed).symm.trans hk
    exact ((ZMod.natCast_eq_natCast_iff' _ _ _).1 hbyte).trans (Nat.mod_eq_of_lt hb)

/-! ### The draw -/

theorem i2f_toNat (n : Nat) : (i2f n).toNat = roundMag (n * 2 ^ 149) 1 :=
  mkFloat_false_toNat (roundMag_le_infBits _ _)

/-- A whole number up to `2^24` is a finite float, and no bits of it are lost (00_scope.md R17). -/
theorem i2f_of_le {n : Nat} (h : n ≤ 2 ^ 24) :
    (i2f n).toNat < infBits ∧ scaledMag (i2f n).toNat = n * 2 ^ 149 := by
  obtain ⟨M, hM, hv⟩ := exists_finite_scaledMag_eq h
  have hround : roundMag (n * 2 ^ 149) 1 = M := by
    simpa only [hv, Nat.mul_one] using roundMag_exact M 1 Nat.one_pos hM.le
  rw [i2f_toNat, hround]
  exact ⟨hM, hv⟩

/-- A quotient of whole numbers, the divisor no smaller, is a float in range: rounding does not
carry it past 1.0, which is a float. -/
theorem fdiv_i2f_inUnit {m n : Nat} (hmn : m ≤ n) (hpos : 0 < n) (hn : n ≤ 2 ^ 24) :
    inUnit (fdiv (i2f m) (i2f n)) := by
  obtain ⟨hm_lt, hm_mag⟩ := i2f_of_le (hmn.trans hn)
  obtain ⟨hn_lt, hn_mag⟩ := i2f_of_le hn
  have hn_pos : 0 < scaledMag (i2f n).toNat := by
    rw [hn_mag]
    positivity
  have hn_ne : 0 < (i2f n).toNat := scaledMag_strictMono.lt_iff_lt.1 (by rwa [scaledMag_zero])
  rw [inUnit, fdiv_pos hm_lt hn_lt hn_ne, mkFloat_false_toNat (roundMag_le_infBits _ _)]
  refine roundMag_le _ _ _ hn_pos ?_
  rw [scaledMag_one, hm_mag, hn_mag, Nat.mul_comm (2 ^ 149)]
  exact Nat.mul_le_mul_right _ (Nat.mul_le_mul_right _ hmn)

/-- The divisor of a draw is the whole number 255. -/
theorem i2f_255 : i2f 255 = f255 := by
  have hmag := scaledMag_place 133 0xFF0000 (.inr (by decide)) (by decide)
  apply BitVec.eq_of_toNat_eq
  apply scaledMag_strictMono.injective
  rw [(i2f_of_le (by decide)).2, show f255.toNat = 133 * 2 ^ 23 + 0xFF0000 from rfl, hmag]
  norm_num

/-- The clamp of a draw changes nothing: a byte over 255 is in range (R134). -/
theorem fdiv_byte_inUnit (r : Nat) : inUnit (fdiv (i2f (r % 256)) f255) :=
  i2f_255 ▸ fdiv_i2f_inUnit (Nat.le_of_lt_succ (Nat.mod_lt r (by decide))) (by decide) (by decide)

theorem drawOfSeed_eq (r : Nat) : drawOfSeed r = fdiv (i2f (r % 256)) f255 :=
  clamp01_of_inUnit (fdiv_byte_inUnit r)

/-! ### The commands -/

theorem genNext_seedLo_toNat (s : State) : (genNext s).seedLo.toNat = lcgStep (seedOf s) := by
  obtain ⟨hseed, hhi⟩ := genNext_seed s
  rw [← hseed, seedOf, hhi]
  exact (Nat.zero_add _).symm

/-- Settles O34: LCG_NEXT is one step of the generator. -/
theorem lcgNextAdvancesSeed : Obligations.LcgNextAdvancesSeed := fun s =>
  ⟨genNext s, rfl, rfl, (genNext_seed s).2, (genNext_seedLo_toNat s).trans (lcgStep_eq _)⟩

/-- Settles O35: LCG_NEXT_F is one step of the generator, and what it draws is not clamped. -/
theorem lcgNextFWritesByteOver255 : Obligations.LcgNextFWritesByteOver255 := by
  intro s
  have hlo := genNext_seedLo_toNat s
  refine ⟨(genNext s).setRndF (drawValue s), rfl, ?frame, (genNext_seed s).2,
    hlo.trans (lcgStep_eq _), ?draw, ?range⟩
  case frame => generalize drawValue s = v; rfl
  case draw =>
    rw [State.setRndF_rndF, State.setRndF_seedLo, hlo]
    exact drawOfSeed_eq _
  case range =>
    rw [State.setRndF_rndF]
    exact drawValue_inUnit s

/-! ### What leaves `SEED` -/

theorem State.sameButPixels.seedOf_eq {s t : State} (h : s.sameButPixels t) :
    seedOf t = seedOf s := by
  rw [h]; rfl

theorem constructRenderer_seedOf (len : BitVec 11) (proto : Proto) (s : State) :
    seedOf (constructRenderer len proto s) = seedOf s :=
  (writeFraming_sameButPixels proto (renderLength len proto)
    ((clearFb s).setDuty Pixel.zero)).seedOf_eq

theorem adoptMessage_seedOf (m : Message) (s : State) :
    seedOf (adoptMessage m s) = seedOf s := by
  unfold adoptMessage
  split <;> rfl

/-- A frame draws only for the tick of the sprites, which pattern 4 alone has
(45_host_control.md R217). -/
theorem frameTick_seedOf {s : State} (h : s.act.pattern ≠ .random) :
    seedOf (frameTick s) = seedOf s := by
  unfold frameTick
  cases hp : s.act.pattern with
  | allOff => exact (allOff_sameButPixels s).seedOf_eq
  | gradient => exact (fillGradient_sameButPixels _ _ s).seedOf_eq
  | dual => exact (fillGradientDual_sameButPixels _ _ s).seedOf_eq
  | triangle => exact (fillTriangle_sameButPixels _ _ _ s).seedOf_eq
  | random => exact absurd hp h

/-- A command that does not draw leaves the seed (R139). -/
theorem exec_seedOf {i : Instr} {s t : State} (h : exec i s = .next t) (hnext : i ≠ .lcgNext)
    (hnextF : i ≠ .lcgNextF) (htick : i ≠ .sprTick) (hinit : ∀ n, i ≠ .sprInit n)
    (hframe : i = .frameTick → s.act.pattern ≠ .random) : seedOf t = seedOf s := by
  cases i with
  | allOff => cases h; exact (allOff_sameButPixels s).seedOf_eq
  | fillGradient => cases h; exact (fillGradient_sameButPixels _ _ s).seedOf_eq
  | fillGradientDual => cases h; exact (fillGradientDual_sameButPixels _ _ s).seedOf_eq
  | fillTriangle => cases h; exact (fillTriangle_sameButPixels _ _ _ s).seedOf_eq
  | fillRandom => cases h; exact (fillRandom_sameButPixels _ _ s).seedOf_eq
  | setPixel idx => cases h; exact (putPixel_sameButPixels _ _ s).seedOf_eq
  | hsv2rgb | hsvInterp | scale | mapRange => cases h; rfl
  | lcgNext => exact absurd rfl hnext
  | lcgNextF => exact absurd rfl hnextF
  | sprInit n => exact absurd rfl (hinit n)
  | sprTick => exact absurd rfl htick
  | rendInit len proto =>
    simp only [exec, execRendInit] at h
    split at h
    · cases h; exact constructRenderer_seedOf _ _ s
    · cases h; rfl
  | msgLoad =>
    simp only [exec, execMsgLoad] at h
    split at h
    · cases h; exact adoptMessage_seedOf _ s
    · cases h; rfl
  | frameTick => cases h; exact frameTick_seedOf (hframe rfl)

/-- A register other than `SEED_LO` and `SEED_HI` has no part of the seed. -/
theorem writeReg_seedOf (s : State) (w : Word) {r : Reg} (hlo : r ≠ .seedLo)
    (hhi : r ≠ .seedHi) : seedOf (writeReg s w r) = seedOf s := by
  have hkeepLo := readReg_writeReg_other s w hlo
  have hkeepHi := readReg_writeReg_other s w hhi
  simp only [readReg] at hkeepLo hkeepHi
  rw [seedOf, seedOf, hkeepLo, hkeepHi]

/-- No register has two numbers (10_state.md R32). -/
theorem regOfNumber_injective {m n : Nat} {r : Reg} (hm : regOfNumber m = some r)
    (hn : regOfNumber n = some r) : m = n := by
  have hlt : m < regMap.length := (List.getElem?_eq_some_iff.1 hm).1
  exact (List.getElem?_inj hlt (by decide)).1 (hm.trans hn.symm)

theorem writeRegNumber_seedOf (s : State) (w : Word) {n : Nat} (hlo : n ≠ 21) (hhi : n ≠ 22) :
    seedOf (writeRegNumber s n w) = seedOf s := by
  unfold writeRegNumber
  split
  · next r hr =>
    refine writeReg_seedOf s w (fun h => hlo ?_) (fun h => hhi ?_)
    · exact regOfNumber_injective (h ▸ hr) (rfl : regOfNumber 21 = some .seedLo)
    · exact regOfNumber_injective (h ▸ hr) (rfl : regOfNumber 22 = some .seedHi)
  · rfl

/-- A register is at one byte offset of the bus, and only a 32-bit access reaches it
(10_state.md R31). -/
theorem eq_of_busRegNumber_eq {offset bytes n : Nat} (hn : n < 64)
    (h : busRegNumber offset bytes = n) : offset = 4 * n ∧ bytes = 4 := by
  unfold busRegNumber at h
  split at h <;> omega

/-- No access but a write of `SEED_LO` or `SEED_HI`, and no event but the reset, reaches the seed
(R139). -/
theorem effectOf_seedOf (s : State) {e : Event} (hlo : ∀ w, e ≠ .regWrite 21 w)
    (hhi : ∀ w, e ≠ .regWrite 22 w) (hbusLo : ∀ w, e ≠ .busRegWrite 84 4 w)
    (hbusHi : ∀ w, e ≠ .busRegWrite 88 4 w) (hreset : ∀ c, e ≠ .reset c) :
    seedOf (effectOf s e) = seedOf s := by
  cases e with
  | regWrite n w =>
    refine writeRegNumber_seedOf s w (fun h => hlo w ?_) (fun h => hhi w ?_) <;> rw [h]
  | busRegWrite offset bytes w =>
    refine writeRegNumber_seedOf s w (fun h => hbusLo w ?_) (fun h => hbusHi w ?_)
    all_goals
      obtain ⟨rfl, rfl⟩ := eq_of_busRegNumber_eq (by decide) h
      rfl
  | fbWrite j v => exact (congrArg seedOf (writeFb_frame s j _)).trans rfl
  | gammaWrite j v => exact (congrArg seedOf (writeGamma_frame s j _)).trans rfl
  | msgWrite i v => exact (congrArg seedOf (writeMsg_frame s i _)).trans rfl
  | reset c => exact absurd rfl (hreset c)
  | regRead _ | busRegRead _ _ | fbRead _ | sprRead _ _ | sprWrite _ _ _ | gammaRead _
  | msgRead _ => rfl

/-- Settles O16: the commands arm by arm, the other events access by access; the port's answer is
no part of the seed. -/
theorem onlyListedAccessesChangeSeed : Obligations.OnlyListedAccessesChangeSeed :=
  ⟨fun _ _ _ => exec_seedOf, fun s _ hlo hhi hbusLo hbusHi hreset =>
    effectOf_seedOf s hlo hhi hbusLo hbusHi hreset⟩

end Sys2Proof.Machine

/-! Positive floats by value and by pattern: multiplying by 0.0 and by 1.0, subtracting a zero, and
the whole part of a positive float (00_scope.md R16 to R18). -/

namespace Sys2Proof.Machine

open Sys2Proof

/-! ### Value and pattern -/

theorem isFinite_of_lt {a : F32} (h : a.toNat < infBits) : isFinite a := by
  rwa [isFinite, magBits_of_le h.le]

theorem mkFloat_toNat {a : F32} (h : a.toNat ≤ infBits) : mkFloat false a.toNat = a :=
  BitVec.eq_of_toNat_eq (mkFloat_false_toNat h)

/-- Positive floats are in the order of their patterns. -/
theorem floatValue_le_iff {a b : F32} (ha : a.toNat ≤ infBits) (hb : b.toNat ≤ infBits) :
    floatValue a ≤ floatValue b ↔ a.toNat ≤ b.toNat := by
  rw [← floatKey_le_iff, floatKey_of_le ha, floatKey_of_le hb, Int.ofNat_le]

theorem floatValue_lt_iff {a b : F32} (ha : a.toNat ≤ infBits) (hb : b.toNat ≤ infBits) :
    floatValue a < floatValue b ↔ a.toNat < b.toNat := by
  rw [← not_le, floatValue_le_iff hb ha, not_le]

theorem floatValue_nonneg {a : F32} (h : a.toNat ≤ infBits) : 0 ≤ floatValue a := by
  rw [← floatValue_zero, floatValue_le_iff (Nat.zero_le _) h]
  exact Nat.zero_le _

/-! ### Products -/

theorem fmul_comm_of_lt {a b : F32} (ha : a.toNat < infBits) (hb : b.toNat < infBits) :
    fmul a b = fmul b a := by
  rw [fmul_pos ha hb, fmul_pos hb ha, Nat.mul_comm]

/-- A factor in range takes a positive float no higher. -/
theorem fmul_le_right {a b : F32} (ha : inUnit a) (hb : b.toNat < infBits) :
    (fmul a b).toNat ≤ b.toNat := by
  rw [fmul_pos ha.lt_inf hb, mkFloat_false_toNat (roundMag_le_infBits _ _), Nat.mul_comm]
  exact roundMag_le _ _ _ (by positivity) (Nat.mul_le_mul_left _ (scaledMag_le_one ha))

theorem fmul_one_left {b : F32} (hb : b.toNat < infBits) : fmul fOne b = b := by
  rw [fmul_pos inUnit_one.lt_inf hb, show fOne.toNat = 0x3F800000 from rfl, scaledMag_one,
    Nat.mul_comm, roundMag_exact _ _ (by positivity) hb.le, mkFloat_toNat hb.le]

theorem fmul_one_right {a : F32} (ha : a.toNat < infBits) : fmul a fOne = a := by
  rw [fmul_comm_of_lt ha inUnit_one.lt_inf, fmul_one_left ha]

theorem fmul_zero_left {b : F32} (hb : b.toNat < infBits) : fmul 0#32 b = 0#32 := by
  rw [fmul_pos inUnit_zero.lt_inf hb, show (0#32).toNat = 0 from rfl, scaledMag_zero, Nat.zero_mul,
    roundMag_zero _ (by positivity)]
  rfl

/-- A finite float times `0.0` is a zero, of either sign. -/
theorem magBits_fmul_zero_right {a : F32} (ha : isFinite a) : magBits (fmul a 0#32) = 0 := by
  unfold fmul
  rw [view_of_isFinite ha, view_of_lt inUnit_zero.lt_inf]
  change magBits (mkFloat _ (roundMag (_ * scaledMag 0) _)) = 0
  rw [scaledMag_zero, Nat.mul_zero, roundMag_zero _ (by positivity)]
  exact magBits_mkFloat _ (by decide)

/-! ### Differences -/

/-- Adding a zero of either sign to a positive magnitude leaves it. -/
theorem addFinite_zero_right (m : Nat) (nb : Bool) :
    addFinite false m nb 0 = mkFloat false (roundMag m 1) := by
  cases nb
  · exact addFinite_pos m 0
  · exact addFinite_sub (Nat.zero_le m)

/-- Subtracting a zero of either sign leaves a positive float bit for bit. -/
theorem fsub_of_magBits_zero {a z : F32} (ha : a.toNat < infBits) (hz : magBits z = 0) :
    fsub a z = a := by
  have hneg : magBits (fneg z) = 0 := (magBits_fneg z).trans hz
  have hfin : isFinite (fneg z) := by
    rw [isFinite, hneg]
    decide
  have hround : roundMag (scaledMag a.toNat) 1 = a.toNat := by
    simpa using roundMag_exact a.toNat 1 Nat.one_pos ha.le
  unfold fsub fadd
  rw [view_of_lt ha, view_of_isFinite hfin, hneg, scaledMag_zero]
  change addFinite false (scaledMag a.toNat) (fneg z).msb 0 = a
  rw [addFinite_zero_right, hround, mkFloat_toNat ha.le]

theorem fsub_zero_right {a : F32} (ha : a.toNat < infBits) : fsub a 0#32 = a :=
  fsub_of_magBits_zero ha rfl

theorem fsub_self {a : F32} (ha : a.toNat < infBits) : fsub a a = 0#32 := by
  rw [fsub_pos ha ha le_rfl, Nat.sub_self, roundMag_zero 1 Nat.one_pos]
  rfl

/-- A difference of floats in range, of either sign, is finite. -/
theorem isFinite_fsub_of_inUnit {a b : F32} (ha : inUnit a) (hb : inUnit b) :
    isFinite (fsub a b) := by
  rcases Nat.lt_or_ge a.toNat b.toNat with hlt | hle
  · rw [fsub_neg ha.lt_inf hb.lt_inf hlt]
    exact isFinite_mkFloat _ ((roundMag_le _ 1 b.toNat Nat.one_pos (by omega)).trans_lt hb.lt_inf)
  · rw [fsub_pos ha.lt_inf hb.lt_inf hle]
    exact isFinite_mkFloat _ ((roundMag_le _ 1 a.toNat Nat.one_pos (by omega)).trans_lt ha.lt_inf)

/-- `1.0` minus a float in range is in range. -/
theorem fsub_one_inUnit {x : F32} (hx : inUnit x) : inUnit (fsub fOne x) :=
  fsub_unit_le inUnit_one hx hx

/-! ### The whole part -/

theorem ffloor_pos {a : F32} (h : a.toNat < infBits) :
    ffloor a = mkFloat false (roundMag (scaledMag a.toNat / 2 ^ 149 * 2 ^ 149) 1) := by
  unfold ffloor
  rw [view_of_lt h]

/-- The whole part of a positive float is a float: nothing is rounded. -/
theorem scaledMag_ffloor {a : F32} (h : a.toNat < infBits) :
    scaledMag (ffloor a).toNat = scaledMag a.toNat / 2 ^ 149 * 2 ^ 149 := by
  obtain ⟨M, hM, hv⟩ := exists_scaledMag_eq_whole h (.inl rfl)
  have hround := roundMag_exact M 1 Nat.one_pos hM.le
  rw [Nat.mul_one, hv] at hround
  rw [ffloor_pos h, mkFloat_false_toNat (roundMag_le_infBits _ _), hround, hv]

/-- What is left of a positive float without its whole part is in range. -/
theorem fsub_ffloor_inUnit {a : F32} (h : a.toNat < infBits) : inUnit (fsub a (ffloor a)) := by
  have hfloor := scaledMag_ffloor h
  have hle : (ffloor a).toNat ≤ a.toNat := by
    rw [← scaledMag_strictMono.le_iff_le, hfloor]
    exact Nat.div_mul_le_self _ _
  rw [inUnit, fsub_pos h (hle.trans_lt h) hle, mkFloat_false_toNat (roundMag_le_infBits _ _)]
  refine roundMag_le _ _ _ Nat.one_pos ?_
  rw [hfloor, scaledMag_one]
  omega

/-- A whole number is its own whole part. -/
theorem ffloor_i2f {n : Nat} (hn : n ≤ 2 ^ 24) : ffloor (i2f n) = i2f n := by
  obtain ⟨hlt, hmag⟩ := i2f_of_le hn
  rw [ffloor_pos hlt, hmag, Nat.mul_div_cancel _ (by positivity)]
  rfl

theorem f2i_i2f_toNat {n : Nat} (hn : n < 2 ^ 24) : (f2i (i2f n)).toNat = n := by
  obtain ⟨hfin, hval⟩ := i2f_of_lt hn
  rw [f2i_toNat_of_isFinite hfin, hval, Int.floor_natCast, Int.toNat_natCast]
  omega

end Sys2Proof.Machine

/-! The channels: truncation of the product with `CH_MAX` (42_color.md R142, R146). -/

namespace Sys2Proof.Machine

open Sys2Proof

theorem chMaxF_eq (c : Config) :
    chMaxF c = if c.cw = .w8 then 0x437F0000#32 else 0x477FFF00#32 := by
  unfold chMaxF
  cases c.cw <;> rfl

theorem chMaxF_lt_inf (c : Config) : (chMaxF c).toNat < infBits := by
  unfold chMaxF
  cases c.cw <;> decide

theorem floatValue_chMaxF (c : Config) : floatValue (chMaxF c) = (c.chMax : ℚ) := by
  unfold chMaxF Config.chMax Config.bits
  cases c.cw <;> decide +kernel

/-- The product of `CH_MAX` and the float below `1.0` is nearer to the float below `CH_MAX` than to
`CH_MAX` (R146), in either width. -/
theorem roundMag_below_one_lt (c : Config) :
    roundMag (scaledMag 0x3F7FFFFF * scaledMag (chMaxF c).toNat) (2 ^ 149) < (chMaxF c).toNat := by
  unfold chMaxF
  cases c.cw <;> decide +kernel

section channel

variable {c : Config} {x : F32}

theorem fmul_chMaxF_le (hx : inUnit x) : (fmul x (chMaxF c)).toNat ≤ (chMaxF c).toNat :=
  fmul_le_right hx (chMaxF_lt_inf c)

theorem fmul_chMaxF_lt (hx : inUnit x) (hne : x ≠ fOne) :
    (fmul x (chMaxF c)).toNat < (chMaxF c).toNat := by
  have hlt : x.toNat ≠ 0x3F800000 := fun h => hne (BitVec.eq_of_toNat_eq h)
  have hbelow : x.toNat ≤ 0x3F7FFFFF := by
    unfold inUnit at hx
    omega
  rw [fmul_pos hx.lt_inf (chMaxF_lt_inf c), mkFloat_false_toNat (roundMag_le_infBits _ _)]
  refine (roundMag_mono _ _ _ (by positivity) ?_).trans_lt (roundMag_below_one_lt c)
  exact Nat.mul_le_mul_right _ (scaledMag_strictMono.monotone hbelow)

/-- The saturations of `f2i` and of `to_channel` do nothing to a float in range. -/
theorem toChannel_eq_floor (hx : inUnit x) :
    (toChannel c x : ℤ) = ⌊floatValue (fmul x (chMaxF c))⌋ := by
  have hmax := chMaxF_lt_inf c
  have hle := fmul_chMaxF_le (c := c) hx
  have hlt := hle.trans_lt hmax
  have hnonneg : 0 ≤ ⌊floatValue (fmul x (chMaxF c))⌋ :=
    Int.floor_nonneg.2 (floatValue_nonneg hlt.le)
  have hfloor : ⌊floatValue (fmul x (chMaxF c))⌋ ≤ (c.chMax : ℤ) := by
    have hval := (floatValue_le_iff hlt.le hmax.le).2 hle
    rw [floatValue_chMaxF] at hval
    exact_mod_cast (Int.floor_le _).trans hval
  have hwidth := chMax_le c
  rw [toChannel, f2i_toNat_of_isFinite (isFinite_of_lt hlt)]
  omega

theorem toChannel_one : toChannel c fOne = c.chMax := by
  have h := toChannel_eq_floor (c := c) inUnit_one
  rw [fmul_one_left (chMaxF_lt_inf c), floatValue_chMaxF, Int.floor_natCast] at h
  exact_mod_cast h

theorem toChannel_lt (hx : inUnit x) (hne : x ≠ fOne) : toChannel c x < c.chMax := by
  have hmax := chMaxF_lt_inf c
  have hlt := fmul_chMaxF_lt (c := c) hx hne
  have hval := (floatValue_lt_iff (hlt.trans hmax).le hmax.le).2 hlt
  rw [floatValue_chMaxF] at hval
  have h : (toChannel c x : ℤ) < c.chMax := by
    rw [toChannel_eq_floor hx]
    exact Int.floor_lt.2 (by exact_mod_cast hval)
  exact_mod_cast h

theorem toChannel_zero : toChannel c 0#32 = 0 := by
  rw [toChannel, fmul_zero_left (chMaxF_lt_inf c)]
  exact Nat.zero_min _

end channel

/-- Settles O41: no saturation takes effect, and a float below 1.0 rounds below `CH_MAX`. -/
theorem channelTruncates : Obligations.ChannelTruncates := by
  intro c x hx
  refine ⟨toChannel_eq_floor hx, fun h => ?_, fun h => ?_⟩
  · by_contra hne
    exact (toChannel_lt hx hne).ne h
  · rw [h]
    exact toChannel_one

end Sys2Proof.Machine

/-! HSV2RGB: the sector and the fraction of a hue, the float channels, and the pixel
(42_color.md R143, R144, R147, R150, R152 to R154). -/

namespace Sys2Proof.Machine

open Sys2Proof

/-! ### The hue -/

theorem fSix_lt_inf : fSix.toNat < infBits := by decide

theorem floatValue_six : floatValue fSix = 6 := by decide +kernel

theorem fmul_six_lt_inf {h : F32} (hh : inUnit h) : (fmul h fSix).toNat < infBits :=
  (fmul_le_right hh fSix_lt_inf).trans_lt fSix_lt_inf

theorem hueFraction_inUnit {h : F32} (hh : inUnit h) : inUnit (hueFraction h) :=
  fsub_ffloor_inUnit (fmul_six_lt_inf hh)

/-- The sector is the whole part of `6h`, which is at most 6, modulo 6. -/
theorem sectorOf_eq_floor {h : F32} (hh : inUnit h) :
    (sectorOf h : ℤ) = ⌊floatValue (fmul h fSix)⌋ % 6 := by
  have hlt := fmul_six_lt_inf hh
  have hnonneg : 0 ≤ ⌊floatValue (fmul h fSix)⌋ := Int.floor_nonneg.2 (floatValue_nonneg hlt.le)
  have hle : ⌊floatValue (fmul h fSix)⌋ ≤ 6 := by
    have hval := (floatValue_le_iff hlt.le fSix_lt_inf.le).2 (fmul_le_right hh fSix_lt_inf)
    rw [floatValue_six] at hval
    exact_mod_cast (Int.floor_le _).trans hval
  obtain ⟨hfin, hfloor⟩ := ffloor_of_isFinite (isFinite_of_lt hlt)
  rw [sectorOf, f2i_toNat_of_isFinite hfin, hfloor, Int.floor_intCast]
  omega

/-- Where `6h` is a whole number `n`, the sector is `n` modulo 6 and nothing is left (R154). -/
theorem sector_and_fraction_of_whole {h : F32} {n : Nat} (hn : n < 2 ^ 24)
    (h6 : fmul h fSix = i2f n) : (sectorOf h, hueFraction h) = (n % 6, 0#32) := by
  rw [sectorOf, hueFraction, h6, ffloor_i2f hn.le, f2i_i2f_toNat hn, fsub_self (i2f_of_le hn.le).1]

theorem sector_and_fraction_hue_zero : (sectorOf 0#32, hueFraction 0#32) = (0, 0#32) :=
  sector_and_fraction_of_whole (n := 0) (by decide) (by decide +kernel)

theorem sector_and_fraction_hue_one : (sectorOf fOne, hueFraction fOne) = (0, 0#32) :=
  sector_and_fraction_of_whole (n := 6) (by decide) (by decide +kernel)

/-- Settles O42: `6h` is `i` for the float nearest to `i/6`, and the float below 1.0 by
computation. -/
theorem sectorBoundaries : Obligations.SectorBoundaries := by
  refine ⟨?_, by decide +kernel, by decide +kernel, by decide +kernel⟩
  simp only [List.map, List.cons.injEq, and_true]
  exact ⟨sector_and_fraction_hue_zero,
    sector_and_fraction_of_whole (n := 1) (by decide) (by decide +kernel),
    sector_and_fraction_of_whole (n := 2) (by decide) (by decide +kernel),
    sector_and_fraction_of_whole (n := 3) (by decide) (by decide +kernel),
    sector_and_fraction_of_whole (n := 4) (by decide) (by decide +kernel),
    sector_and_fraction_of_whole (n := 5) (by decide) (by decide +kernel),
    sector_and_fraction_hue_one⟩

/-! ### The float channels -/

/-- The sector table uses the four floats and nothing else. -/
theorem sectorRow_forall {P : F32 → Prop} {v p q t : F32} (sector : Nat) (hv : P v) (hp : P p)
    (hq : P q) (ht : P t) :
    P (sectorRow sector v p q t).r ∧ P (sectorRow sector v p q t).g ∧
      P (sectorRow sector v p q t).b := by
  unfold sectorRow
  split_ifs <;> refine ⟨?_, ?_, ?_⟩ <;> assumption

/-- The sector table after a function on each channel, by the sector as an integer. -/
theorem sectorRow_map {α : Type} (f : F32 → α) (sector : Nat) (v p q t : F32) :
    (f (sectorRow sector v p q t).r, f (sectorRow sector v p q t).g,
        f (sectorRow sector v p q t).b) =
      if (sector : ℤ) = 0 then (f v, f t, f p)
      else if (sector : ℤ) = 1 then (f q, f v, f p)
      else if (sector : ℤ) = 2 then (f p, f v, f t)
      else if (sector : ℤ) = 3 then (f p, f q, f v)
      else if (sector : ℤ) = 4 then (f t, f p, f v)
      else (f v, f p, f q) := by
  unfold sectorRow
  norm_cast
  split_ifs <;> rfl

theorem sectorRow_const (sector : Nat) (v : F32) : sectorRow sector v v v v = ⟨v, v, v⟩ := by
  unfold sectorRow
  split_ifs <;> rfl

/-- `p`, `q` and `t` are `v` times `1.0` less a float in range. -/
theorem fmul_fsub_one_inUnit {v x : F32} (hv : inUnit v) (hx : inUnit x) :
    inUnit (fmul v (fsub fOne x)) := fmul_inUnit hv (fsub_one_inUnit hx)

/-- R153: the float channels are in range. -/
theorem hsvFloat_inUnit {x : Hsv} (hx : x.InUnit) :
    inUnit (hsvFloat x).r ∧ inUnit (hsvFloat x).g ∧ inUnit (hsvFloat x).b := by
  obtain ⟨hh, hs, hv⟩ := hx
  have hf := hueFraction_inUnit hh
  exact sectorRow_forall (P := fun a => inUnit a) _ hv (fmul_fsub_one_inUnit hv hs)
    (fmul_fsub_one_inUnit hv (fmul_inUnit hs hf))
    (fmul_fsub_one_inUnit hv (fmul_inUnit hs (fsub_one_inUnit hf)))

/-- Saturation `0.0`: every channel is `v`, whatever the hue (R152). -/
theorem hsvFloat_saturation_zero {x : Hsv} (hx : x.InUnit) (h0 : x.s = 0#32) :
    hsvFloat x = ⟨x.v, x.v, x.v⟩ := by
  obtain ⟨hh, -, hv⟩ := hx
  have hf := hueFraction_inUnit hh
  simp only [hsvFloat, h0, fmul_zero_left hf.lt_inf, fmul_zero_left (fsub_one_inUnit hf).lt_inf,
    fsub_zero_right inUnit_one.lt_inf, fmul_one_right hv.lt_inf, sectorRow_const]

/-- Value `0.0`: every channel is `0.0` (R152). -/
theorem hsvFloat_value_zero {x : Hsv} (hx : x.InUnit) (h0 : x.v = 0#32) :
    hsvFloat x = ⟨0#32, 0#32, 0#32⟩ := by
  obtain ⟨hh, hs, -⟩ := hx
  have hf := hueFraction_inUnit hh
  have hzero {y : F32} (hy : inUnit y) : fmul 0#32 (fsub fOne y) = 0#32 :=
    fmul_zero_left (fsub_one_inUnit hy).lt_inf
  simp only [hsvFloat, h0, hzero hs, hzero (fmul_inUnit hs hf),
    hzero (fmul_inUnit hs (fsub_one_inUnit hf)), sectorRow_const]

/-- Hue `1.0` has the sector and the fraction of hue `0.0`, and so its channels (R152). -/
theorem hsvFloat_hue_one {x : Hsv} (h1 : x.h = fOne) :
    hsvFloat x = hsvFloat { x with h := 0#32 } := by
  obtain ⟨hsector, hfraction⟩ :=
    Prod.mk.inj (sector_and_fraction_hue_one.trans sector_and_fraction_hue_zero.symm)
  simp only [hsvFloat, h1, hsector, hfraction]

/-! ### The command -/

theorem exec_hsv2rgb (s : State) : exec .hsv2rgb s = .next (s.setPix (conv s s.a)) := rfl

theorem conv_of_gammaOff {s : State} (h : s.gammaEn = false) (x : Hsv) :
    conv s x = hsvToRgb s.cfg x := by
  simp only [conv, gammaStage, h, Bool.false_eq_true, if_false]

theorem conv_of_gammaOn {s : State} (h : s.gammaEn = true) (x : Hsv) :
    conv s x =
      { r := readGamma s (hsvToRgb s.cfg x).r.toNat
        g := readGamma s (hsvToRgb s.cfg x).g.toNat
        b := readGamma s (hsvToRgb s.cfg x).b.toNat } := by
  simp only [conv, gammaStage, h, if_true]

/-- With the gamma stage off HSV2RGB writes the converted pixel as it is. -/
theorem exec_hsv2rgb_of_gammaOff {s : State} (h : s.gammaEn = false) :
    exec .hsv2rgb s = .next (s.setPix (hsvToRgb s.cfg s.a)) := by
  rw [exec_hsv2rgb, conv_of_gammaOff h]

/-- Settles O38, by the two values of `GAMMA_EN`. -/
theorem hsv2rgbWritesConvertedPixel : Obligations.Hsv2rgbWritesConvertedPixel := by
  intro s
  refine ⟨_, exec_hsv2rgb s, rfl, fun hoff => conv_of_gammaOff hoff _, fun hon => ?_⟩
  rw [State.setPix_pix, conv_of_gammaOn hon]
  exact ⟨rfl, rfl, rfl⟩

/-- The pixel of a colour in range, channel by channel, as the truncated products. -/
theorem hsvToRgb_eq_floor (c : Config) {x : Hsv} (hx : x.InUnit) :
    (((hsvToRgb c x).r.toNat : ℤ), ((hsvToRgb c x).g.toNat : ℤ), ((hsvToRgb c x).b.toNat : ℤ)) =
      (⌊floatValue (fmul (hsvFloat x).r (chMaxF c))⌋, ⌊floatValue (fmul (hsvFloat x).g (chMaxF c))⌋,
        ⌊floatValue (fmul (hsvFloat x).b (chMaxF c))⌋) := by
  obtain ⟨hr, hg, hb⟩ := hsvFloat_inUnit hx
  simp only [hsvToRgb, ofNat_toChannel, toChannel_eq_floor hr, toChannel_eq_floor hg,
    toChannel_eq_floor hb]

/-- Settles O39: the channels are truncated products of the float channels, and the row of the
sector table is that of the whole part of `6h`. -/
theorem hsv2rgbFollowsSectorTable : Obligations.Hsv2rgbFollowsSectorTable := by
  intro s hinv hoff
  refine ⟨_, exec_hsv2rgb_of_gammaOff hoff, fun sector hsector => ?_⟩
  obtain rfl : sector = sectorOf s.a.h := hsector.trans (sectorOf_eq_floor hinv.a.1).symm
  rw [State.setPix_pix, hsvToRgb_eq_floor s.cfg hinv.a, ← chMaxF_eq]
  exact sectorRow_map (fun x => ⌊floatValue (fmul x (chMaxF s.cfg))⌋) _ _ _ _ _

/-- Settles O40: each corner case of the float channels, truncated. -/
theorem hsv2rgbCornerCases : Obligations.Hsv2rgbCornerCases := by
  intro s hinv hoff
  refine ⟨_, exec_hsv2rgb_of_gammaOff hoff, fun hs0 => ?saturation, fun hv0 => ?value,
    fun hh1 => ⟨_, exec_hsv2rgb_of_gammaOff hoff, ?hue⟩⟩
  case saturation =>
    simp only [State.setPix_pix, hsvToRgb, hsvFloat_saturation_zero hinv.a hs0, ofNat_toChannel,
      and_self]
  case value =>
    simp only [State.setPix_pix, hsvToRgb, hsvFloat_value_zero hinv.a hv0, toChannel_zero,
      Pixel.zero]
  case hue =>
    simp only [State.setPix_pix, hsvToRgb, hsvFloat_hue_one hh1]

end Sys2Proof.Machine

/-! HSV_INTERP: one channel, and the ends of the interpolation (42_color.md R149, R151, R152). -/

namespace Sys2Proof.Machine

open Sys2Proof

section lerp

variable {a b tc : F32}

theorem lerp1_at_one : lerp1 a b fOne = b := if_pos (by decide)

theorem lerp1_of_ne_one (ht : inUnit tc) (hne : tc ≠ fOne) :
    lerp1 a b tc = clamp01 (fsub a (fmul (fsub a b) tc)) := by
  rw [lerp1, feq_of_le ht.le_inf inUnit_one.le_inf, decide_eq_false hne, if_neg Bool.false_ne_true]

/-- What is subtracted at `0.0` is a zero, of the sign of the difference. -/
theorem lerp1_at_zero (ha : inUnit a) (hb : inUnit b) : lerp1 a b 0#32 = a := by
  rw [lerp1_of_ne_one inUnit_zero (by decide), fsub_of_magBits_zero ha.lt_inf
    (magBits_fmul_zero_right (isFinite_fsub_of_inUnit ha hb)), clamp01_of_inUnit ha]

/-- Between equal ends there is nothing to subtract. -/
theorem lerp1_self (ha : inUnit a) (ht : inUnit tc) : lerp1 a a tc = a := by
  by_cases h1 : tc = fOne
  · rw [h1, lerp1_at_one]
  · rw [lerp1_of_ne_one ht h1, fsub_self ha.lt_inf, fmul_zero_left ht.lt_inf,
      fsub_zero_right ha.lt_inf, clamp01_of_inUnit ha]

end lerp

section interp

variable {x y : Hsv} {t : F32}

/-- The clamp of `T` does nothing to a float in range. -/
theorem hsvInterp_of_inUnit (ht : inUnit t) :
    hsvInterp x y t = { h := lerp1 x.h y.h t, s := lerp1 x.s y.s t, v := lerp1 x.v y.v t } := by
  rw [hsvInterp, clamp01_of_inUnit ht]

theorem hsvInterp_at_zero (hx : x.InUnit) (hy : y.InUnit) : hsvInterp x y 0#32 = x := by
  obtain ⟨hxh, hxs, hxv⟩ := hx
  obtain ⟨hyh, hys, hyv⟩ := hy
  rw [hsvInterp_of_inUnit inUnit_zero, lerp1_at_zero hxh hyh, lerp1_at_zero hxs hys,
    lerp1_at_zero hxv hyv]

theorem hsvInterp_at_one : hsvInterp x y fOne = y := by
  simp only [hsvInterp_of_inUnit inUnit_one, lerp1_at_one]

theorem hsvInterp_self (hx : x.InUnit) (ht : inUnit t) : hsvInterp x x t = x := by
  obtain ⟨hh, hs, hv⟩ := hx
  rw [hsvInterp_of_inUnit ht, lerp1_self hh ht, lerp1_self hs ht, lerp1_self hv ht]

end interp

theorem exec_hsvInterp (s : State) :
    exec .hsvInterp s = .next (s.setR (hsvInterp s.a s.b s.t)) := rfl

/-- Settles O43: the formula where `T` is not 1.0, and the ends of the interpolation. -/
theorem hsvInterpIsExactAtEnds : Obligations.HsvInterpIsExactAtEnds := by
  intro s hinv
  refine ⟨_, exec_hsvInterp s, rfl, fun hne => ?formula, fun h0 => ?zero, fun h1 => ?one,
    fun hab => ?equal⟩ <;> rw [State.setR_r]
  case formula =>
    rw [hsvInterp_of_inUnit hinv.t]
    exact ⟨lerp1_of_ne_one hinv.t hne, lerp1_of_ne_one hinv.t hne, lerp1_of_ne_one hinv.t hne⟩
  case zero => rw [h0, hsvInterp_at_zero hinv.a hinv.b]
  case one => rw [h1, hsvInterp_at_one]
  case equal => rw [← hab, hsvInterp_self hinv.a hinv.t]

end Sys2Proof.Machine

/-! The float steps of the sprite drift: a step of at least `STEP_MIN` moves every float in range by
at least one pattern, and the target stops it (43_sprite.md R169, R170). -/

namespace Sys2Proof.Machine

open Sys2Proof

/-! ### Values and patterns -/

/-- Positive floats of one value are one pattern. -/
theorem floatValue_inj {a b : F32} (ha : a.toNat ≤ infBits) (hb : b.toNat ≤ infBits) :
    floatValue a = floatValue b ↔ a = b := by
  rw [le_antisymm_iff, floatValue_le_iff ha hb, floatValue_le_iff hb ha, ← le_antisymm_iff,
    BitVec.toNat_inj]

/-- Up to 1.0 the next float is at most `2^-24` away. -/
theorem scaledMag_succ_le {m : Nat} (h : m < 0x3F800000) :
    scaledMag (m + 1) ≤ scaledMag m + 2 ^ 125 := by
  obtain ⟨k, t, rfl, hplace, ht, hk⟩ : ∃ k t, m = k * 2 ^ 23 + t ∧ (k = 0 ∨ 2 ^ 23 ≤ t) ∧
      t < 2 ^ 24 ∧ k ≤ 125 :=
    ⟨m / 2 ^ 23 - 1, m - (m / 2 ^ 23 - 1) * 2 ^ 23, by omega, by omega, by omega, by omega⟩
  rw [Nat.add_assoc, scaledMag_place k t hplace ht.le,
    scaledMag_place k (t + 1) (hplace.imp_right Nat.le_succ_of_le) ht, Nat.add_one_mul]
  exact Nat.add_le_add_left (Nat.pow_le_pow_right (by decide) hk) _

/-- `STEP_MIN` is larger than any such gap. -/
theorem gap_le_scaledMag_of_stepMin_le {m : Nat} (h : Config.stepMin.toNat ≤ m) :
    2 ^ 125 ≤ scaledMag m := by
  have hmin := scaledMag_place 116 0x83126F (.inr (by decide)) (by decide)
  calc 2 ^ 125 ≤ 0x83126F * 2 ^ 116 := by norm_num
    _ = scaledMag Config.stepMin.toNat := hmin.symm
    _ ≤ scaledMag m := scaledMag_strictMono.monotone h

/-! ### The drift -/

section drift

variable {v d g : F32}

/-- A step down is strict: below zero by its sign, else by the gap to the next float below. -/
theorem floatValue_fsub_lt (hv : inUnit v) (hd : inUnit d) (hmin : Config.stepMin.toNat ≤ d.toNat)
    (hpos : 0 < v.toNat) : floatValue (fsub v d) < floatValue v := by
  rcases Nat.lt_or_ge v.toNat d.toNat with hlt | hle
  · have hround : roundMag (scaledMag d.toNat - scaledMag v.toNat) 1 < infBits :=
      (roundMag_le _ 1 d.toNat Nat.one_pos (by omega)).trans_lt hd.lt_inf
    have hv0 : 0 < floatValue v := by
      rwa [← floatValue_zero, floatValue_lt_iff inUnit_zero.le_inf hv.le_inf]
    rw [fsub_neg hv.lt_inf hd.lt_inf hlt, floatValue_mkFloat true hround, signedMag_true]
    refine lt_of_le_of_lt (div_nonpos_of_nonpos_of_nonneg ?_ (by positivity)) hv0
    simp
  · obtain ⟨m, hm⟩ := Nat.exists_eq_add_one.2 hpos
    have hgap := scaledMag_succ_le (m := m) (by rw [inUnit] at hv; omega)
    have hstep := gap_le_scaledMag_of_stepMin_le hmin
    have hround : roundMag (scaledMag (m + 1) - scaledMag d.toNat) 1 ≤ m :=
      roundMag_le _ 1 m Nat.one_pos (by omega)
    rw [floatValue_lt_iff ((fsub_unit_le hv hd hle).trans hv.le_inf) hv.le_inf,
      fsub_pos hv.lt_inf hd.lt_inf hle, mkFloat_false_toNat (roundMag_le_infBits _ _), hm]
    exact Nat.lt_succ_of_le hround

/-- A step up from below 1.0 is strict, by the gap to the next float above. -/
theorem lt_fadd_toNat (hv : v.toNat < 0x3F800000) (hd : inUnit d)
    (hmin : Config.stepMin.toNat ≤ d.toNat) : v.toNat < (fadd v d).toNat := by
  have hvu : inUnit v := hv.le
  have hgap := scaledMag_succ_le hv
  have hstep := gap_le_scaledMag_of_stepMin_le hmin
  rw [fadd_pos hvu.lt_inf hd.lt_inf, mkFloat_false_toNat (roundMag_le_infBits _ _)]
  exact le_roundMag _ 1 (v.toNat + 1) Nat.one_pos hvu.lt_inf (by omega)

/-- A float above its target steps strictly down, and no further than the target. -/
theorem drift_down_between (hv : inUnit v) (hg : inUnit g) (hd : inUnit d)
    (hmin : Config.stepMin.toNat ≤ d.toNat) (h : floatValue g < floatValue v) :
    floatValue g ≤ floatValue (fmax (fsub v d) g) ∧
      floatValue (fmax (fsub v d) g) < floatValue v := by
  have hpos : 0 < v.toNat := Nat.zero_lt_of_lt ((floatValue_lt_iff hg.le_inf hv.le_inf).1 h)
  rw [fmax_of_isFinite (isFinite_fsub_of_inUnit hv hd) (isFinite_of_lt hg.lt_inf)]
  split
  · next hle => exact ⟨hle, floatValue_fsub_lt hv hd hmin hpos⟩
  · exact ⟨le_rfl, h⟩

/-- A float below its target steps strictly up, and no further than the target. -/
theorem drift_up_between (hv : inUnit v) (hg : inUnit g) (hd : inUnit d)
    (hmin : Config.stepMin.toNat ≤ d.toNat) (h : floatValue v < floatValue g) :
    floatValue v < floatValue (fmin (fadd v d) g) ∧
      floatValue (fmin (fadd v d) g) ≤ floatValue g := by
  have hlt := (floatValue_lt_iff hv.le_inf hg.le_inf).1 h
  have hnew : inUnit (fmin (fadd v d) g) := drift_up_inUnit hv hg hd
  rw [floatValue_lt_iff hv.le_inf hnew.le_inf, floatValue_le_iff hnew.le_inf hg.le_inf,
    fmin_of_le (fadd_unit_ge hv hd).2 hg.le_inf]
  exact ⟨lt_min (lt_fadd_toNat (hlt.trans_le hg) hd hmin) hlt, min_le_right _ _⟩

end drift

end Sys2Proof.Machine

/-! The two loops over the sprite bank, SPR_INIT and SPR_TICK: what one pass leaves in its own
sprite and in `SEED`, and what the loop leaves after any number of passes (43_sprite.md R161 to
R169). -/

namespace Sys2Proof.Machine

open Sys2Proof

/-! ### Draws counted from the start of the command -/

section draws

variable {s t : State} {n seed : Nat}

theorem genNext_seed_iterate (h : seedOf t = lcgStep^[n] seed) :
    seedOf (genNext t) = lcgStep^[n + 1] seed := by
  rw [(genNext_seed t).1, h, Function.iterate_succ_apply']

theorem drawValue_iterate (h : seedOf t = lcgStep^[n] seed) :
    drawValue t = drawOfSeed (lcgStep^[n + 1] seed) := by
  rw [drawValue, h, Function.iterate_succ_apply']

theorem genNext_spr (s : State) : (genNext s).spr = s.spr := State.setSeed_spr _ _ _

theorem seedOf_writeSprite (s : State) (k : Nat) (x : Sprite) :
    seedOf (writeSprite s k x) = seedOf s := by
  rw [writeSprite_frame]
  rfl

theorem readSprite_of_spr_eq (h : t.spr = s.spr) (k : Nat) : readSprite t k = readSprite s k := by
  rw [readSprite, h, readSprite]

theorem State.sameButBank.vscale_eq (h : s.sameButBank t) : t.vscale = s.vscale := by
  rw [h]; rfl

theorem State.sameButBank.sscale_eq (h : s.sameButBank t) : t.sscale = s.sscale := by
  rw [h]; rfl

end draws

/-! ### A loop over the bank -/

/-- After `m` passes of a loop over the bank that started in `s`: `draws m` draws are made, the
first `m` sprites are those of `sprite`, the others as they were, and nothing else differs. -/
structure BankLoop (s : State) (draws : Nat → Nat) (sprite : Nat → Sprite) (m : Nat) (t : State) :
    Prop where
  inv : t.Inv
  frame : s.sameButBank t
  seed : seedOf t = lcgStep^[draws m] (seedOf s)
  done : ∀ k, k < m → readSprite t k = sprite k
  rest : ∀ k, m ≤ k → readSprite t k = readSprite s k

section loop

variable {s t u : State} {draws : Nat → Nat} {sprite : Nat → Sprite} {m : Nat}

theorem BankLoop.start (h : s.Inv) (h0 : draws 0 = 0) : BankLoop s draws sprite 0 s where
  inv := h
  frame := s.sameButBank_refl
  seed := by rw [h0]; rfl
  done := fun _ hk => absurd hk (Nat.not_lt_zero _)
  rest := fun _ _ => rfl

/-- A pass that writes its own sprite alone, after the draws it makes. -/
theorem BankLoop.next (h : BankLoop s draws sprite m t) (hinv : u.Inv) (hframe : t.sameButBank u)
    (hseed : seedOf u = lcgStep^[draws (m + 1)] (seedOf s))
    (hread : ∀ k, readSprite u k = if k = m then sprite m else readSprite t k) :
    BankLoop s draws sprite (m + 1) u where
  inv := hinv
  frame := State.sameButBank_trans h.frame hframe
  seed := hseed
  done := fun k hk => by
    rw [hread]
    split
    · next heq => rw [heq]
    · next hne => exact h.done k (by omega)
  rest := fun k hk => by
    rw [hread, if_neg (by omega)]
    exact h.rest k (by omega)

end loop

/-! ### Construction -/

/-- The sprite that construction makes of draws `3k + 1`, `3k + 2` and `3k + 3`
(43_sprite.md R162, R163). -/
def builtSprite (s : State) (k : Nat) : Sprite :=
  { value := fmul (drawOfSeed (lcgStep^[3 * k + 1] (seedOf s))) s.vscale
    target := fmul (drawOfSeed (lcgStep^[3 * k + 2] (seedOf s))) s.vscale
    step := fmax (fmul (drawOfSeed (lcgStep^[3 * k + 3] (seedOf s))) s.sscale) Config.stepMin }

theorem newSprite_eq_builtSprite {s t : State} {k : Nat} (hframe : s.sameButBank t)
    (hseed : seedOf t = lcgStep^[3 * k] (seedOf s)) : newSprite t = builtSprite s k := by
  have hseed1 := genNext_seed_iterate hseed
  have hseed2 := genNext_seed_iterate hseed1
  simp only [newSprite, builtSprite, scaledValue, scaledStep, hframe.vscale_eq, hframe.sscale_eq,
    drawValue_iterate hseed, drawValue_iterate hseed1, drawValue_iterate hseed2]

theorem forBelow_initSprite {s : State} (h : s.Inv) {n : Nat} (hn : n ≤ Config.nMax) :
    BankLoop s (3 * ·) (builtSprite s) n (forBelow n initSprite s) := by
  refine forBelow_count (P := BankLoop s (3 * ·) (builtSprite s)) (.start h rfl) fun k t hk ht => ?_
  refine ht.next (ht.inv.initSprite k) (initSprite_sameButBank k t) ?seed fun i => ?read
  case seed =>
    rw [initSprite, seedOf_writeSprite]
    exact genNext_seed_iterate (genNext_seed_iterate (genNext_seed_iterate ht.seed))
  case read =>
    simp only [readSprite_initSprite ht.inv, hk.trans_le hn, and_true,
      newSprite_eq_builtSprite ht.frame ht.seed]

theorem exec_sprInit (n : BitVec 11) (s : State) : exec (.sprInit n) s =
    .next (setSprOk ((forBelow (min n.toNat Config.nMax) initSprite s).setNspr
      (BitVec.ofNat 11 (min n.toNat Config.nMax)))) := rfl

/-- Settles O44: the loop of constructions, then `NSPR` and `SPR_OK`. -/
theorem sprInitDrawsInOrder : Obligations.SprInitDrawsInOrder := by
  intro s n hinv
  have hcount : min n.toNat Config.nMax ≤ Config.nMax := min_le_right _ _
  have hloop := forBelow_initSprite hinv hcount
  refine ⟨_, exec_sprInit n s, ?_⟩
  generalize forBelow (min n.toNat Config.nMax) initSprite s = u at hloop ⊢
  refine ⟨?frame, ofNat_count_toNat hcount, hloop.seed, hloop.done, hloop.rest⟩
  case frame =>
    have hframe := hloop.frame
    conv_lhs => rw [hframe]
    rfl

/-! ### The tick -/

/-- The first arm of the update (43_sprite.md R164). -/
def Sprite.movedDown (x : Sprite) : Sprite :=
  { x with value := fmax (fsub x.value x.step) x.target }

/-- The second arm of the update (43_sprite.md R164). -/
def Sprite.movedUp (x : Sprite) : Sprite :=
  { x with value := fmin (fadd x.value x.step) x.target }

/-- The third arm of the update: the next two draws after those of the sprites below
(43_sprite.md R164, R167, R168). -/
def retargetedSprite (s : State) (k : Nat) : Sprite :=
  { value := (readSprite s k).value
    target := fmul (drawOfSeed (lcgStep^[2 * retargetsBelow s k + 1] (seedOf s))) s.vscale
    step := fmax (fmul (drawOfSeed (lcgStep^[2 * retargetsBelow s k + 2] (seedOf s))) s.sscale)
      Config.stepMin }

/-- What the tick makes of sprite `k`, from the state at its start. -/
def tickedSprite (s : State) (k : Nat) : Sprite :=
  if floatValue (readSprite s k).target < floatValue (readSprite s k).value then
    (readSprite s k).movedDown
  else if floatValue (readSprite s k).value < floatValue (readSprite s k).target then
    (readSprite s k).movedUp
  else retargetedSprite s k

/-- The update with its tests read as comparisons of values. -/
theorem updateSprite_of_fits {s : State} {k : Nat} {x : Sprite} (hread : readSprite s k = x)
    (hx : x.Fits) : updateSprite k s =
      if floatValue x.target < floatValue x.value then writeSprite s k x.movedDown
      else if floatValue x.value < floatValue x.target then writeSprite s k x.movedUp
      else writeSprite (genNext (genNext s)) k (retarget s x) := by
  obtain ⟨hv, hg, -⟩ := hx
  have hvf := isFinite_of_lt hv.lt_inf
  have hgf := isFinite_of_lt hg.lt_inf
  simp only [updateSprite, hread, flt_iff hvf hgf, flt_iff hgf hvf]
  rfl

/-- A sprite at its target, and no other, adds one to the count. -/
theorem retargetsBelow_succ {s : State} {k : Nat} (hx : (readSprite s k).Fits) :
    retargetsBelow s (k + 1) = retargetsBelow s k +
      if floatValue (readSprite s k).value = floatValue (readSprite s k).target then 1 else 0 := by
  obtain ⟨hv, hg, -⟩ := hx
  simp only [retargetsBelow, List.range_succ, List.filter_append, List.length_append,
    floatValue_inj hv.le_inf hg.le_inf]
  split
  · next heq => simp [heq]
  · next hne => simp [hne]

theorem retarget_eq_retargetedSprite {s t : State} {k : Nat} (hframe : s.sameButBank t)
    (hseed : seedOf t = lcgStep^[2 * retargetsBelow s k] (seedOf s)) :
    retarget t (readSprite s k) = retargetedSprite s k := by
  have hseed1 := genNext_seed_iterate hseed
  simp only [retarget, retargetedSprite, scaledValue, scaledStep, hframe.vscale_eq,
    hframe.sscale_eq, drawValue_iterate hseed, drawValue_iterate hseed1]

/-- The update of sprite `k` in a tick: it writes what `tickedSprite` says after the draws of a
re-target, if it is one. -/
theorem updateSprite_eq_tickedSprite {s t : State} {k : Nat} (hx : (readSprite s k).Fits)
    (hframe : s.sameButBank t) (hread : readSprite t k = readSprite s k)
    (hseed : seedOf t = lcgStep^[2 * retargetsBelow s k] (seedOf s)) :
    ∃ u, u.spr = t.spr ∧ seedOf u = lcgStep^[2 * retargetsBelow s (k + 1)] (seedOf s) ∧
      updateSprite k t = writeSprite u k (tickedSprite s k) := by
  rw [updateSprite_of_fits hread hx, retargetsBelow_succ hx, tickedSprite]
  rcases lt_trichotomy (floatValue (readSprite s k).target) (floatValue (readSprite s k).value)
    with hlt | heq | hgt
  · refine ⟨t, rfl, ?_, ?_⟩
    · rw [if_neg hlt.ne']
      exact hseed
    · simp only [if_pos hlt]
  · refine ⟨genNext (genNext t), (genNext_spr _).trans (genNext_spr _), ?_, ?_⟩
    · rw [if_pos heq.symm]
      exact genNext_seed_iterate (genNext_seed_iterate hseed)
    · simp only [if_neg heq.not_lt, if_neg heq.not_gt,
        retarget_eq_retargetedSprite hframe hseed]
  · refine ⟨t, rfl, ?_, ?_⟩
    · rw [if_neg hgt.ne]
      exact hseed
    · simp only [if_neg hgt.not_gt, if_pos hgt]

theorem tickSprites_bankLoop {s : State} (h : s.Inv) :
    BankLoop s (2 * retargetsBelow s ·) (tickedSprite s) s.nspr.toNat (tickSprites s) := by
  refine forBelow_count (P := BankLoop s (2 * retargetsBelow s ·) (tickedSprite s))
    (.start h rfl) fun k t hk ht => ?_
  have hk_t : k < t.nspr.toNat := ht.frame.nspr_eq ▸ hk
  have hk_max : k < Config.nMax := hk.trans_le h.nspr
  obtain ⟨u, hspr, hseed, hupdate⟩ :=
    updateSprite_eq_tickedSprite (h.bank k hk) ht.frame (ht.rest k le_rfl) ht.seed
  refine ht.next (ht.inv.updateSprite hk_t) (updateSprite_sameButBank k t) ?seed fun i => ?read
  case seed => rw [hupdate, seedOf_writeSprite, hseed]
  case read =>
    have hwf : Memory.wf emptySprite u.spr := hspr ▸ ht.inv.spr.1
    simp only [hupdate, readSprite_writeSprite u k _ i hwf, readSprite_of_spr_eq hspr, hk_max,
      and_true]

theorem exec_sprTick (s : State) : exec .sprTick s = .next (tickSprites s) := rfl

/-- Settles O45: the loop of updates, with the arms of `tickedSprite` told apart by their tests. -/
theorem sprTickUpdatesEverySprite : Obligations.SprTickUpdatesEverySprite := by
  intro s hinv
  have hloop := tickSprites_bankLoop hinv
  refine ⟨_, exec_sprTick s, hloop.frame, hloop.seed, fun k hk => ?_, hloop.rest⟩
  rw [hloop.done k hk, tickedSprite]
  refine ⟨fun hlt => ?down, fun hgt => ?up, fun heq => ?retarget⟩
  case down => exact if_pos hlt
  case up => exact (if_neg hgt.not_gt).trans (if_pos hgt)
  case retarget => exact (if_neg heq.not_gt).trans (if_neg heq.not_lt)

/-- Settles O46: a tick moves a sprite by the float steps of the drift. -/
theorem spriteDriftNeverOvershoots : Obligations.SpriteDriftNeverOvershoots := by
  intro s hinv
  obtain ⟨t, hexec, -, -, hticked, -⟩ := sprTickUpdatesEverySprite s hinv
  refine ⟨t, hexec, fun k hk => ?_⟩
  obtain ⟨hdown, hup, -⟩ := hticked k hk
  obtain ⟨hv, hg, hd, hmin⟩ := hinv.bank k hk
  refine ⟨fun hlt => ?down, fun hgt => ?up, fun hne => ?kept⟩
  case down =>
    rw [hdown hlt]
    exact drift_down_between hv hg hd hmin hlt
  case up =>
    rw [hup hgt]
    exact drift_up_between hv hg hd hmin hgt
  case kept =>
    rcases lt_or_gt_of_ne hne with hgt | hlt
    · rw [hup hgt]
      exact ⟨rfl, rfl⟩
    · rw [hdown hlt]
      exact ⟨rfl, rfl⟩

end Sys2Proof.Machine

/-! A strip of pixel writes: what one write leaves alone, what a run of them leaves, and SET_PIXEL
(44_render.md R188 to R191). -/

namespace Sys2Proof.Machine

open Sys2Proof

/-! ### One element -/

theorem read_writeFb_of_ne {s : State} {k j : Nat} (v : Elem) (h : Memory.wf emptyElem s.fb)
    (hne : j ≠ k) :
    Memory.read emptyElem (writeFb s k v).fb j = Memory.read emptyElem s.fb j := by
  unfold writeFb
  split
  · exact Memory.read_write_other s.fb _ h hne
  · rfl

theorem readFb_congr {s t : State} {j : Nat} (hcfg : t.cfg = s.cfg)
    (hread : Memory.read emptyElem t.fb j = Memory.read emptyElem s.fb j) :
    readFb t j = readFb s j := by
  unfold readFb
  rw [hcfg, hread]

theorem readFb_of_lt {s : State} {j : Nat} (hj : j < s.cfg.fbCap) :
    readFb s j = Memory.read emptyElem s.fb j := if_pos hj

/-! ### Which elements the pixels occupy -/

/-- No pixel of the strip stores anything outside its pixels (44_render.md R185). -/
theorem storedElement_of_outsidePixels {s : State} {i j : Nat} (p : Pixel)
    (hj : outsidePixels s j) (hi : i < s.len.toNat) : storedElement s.cfg s.proto i p j = none := by
  unfold outsidePixels at hj
  unfold storedElement
  cases hproto : s.proto with
  | clocked =>
    simp only [hproto] at hj ⊢
    rw [if_neg, if_neg, if_neg, if_neg] <;> omega
  | single =>
    simp only [hproto] at hj ⊢
    rw [if_neg, if_neg, if_neg] <;> omega
  | pwm => rfl

/-- Every other element belongs to a pixel of the strip. -/
theorem exists_storedElement_of_not_outsidePixels {s : State} {j : Nat} (p : Pixel)
    (hj : ¬ outsidePixels s j) :
    ∃ i v, i < s.len.toNat ∧ storedElement s.cfg s.proto i p j = some v := by
  unfold outsidePixels at hj
  unfold storedElement
  cases hproto : s.proto with
  | clocked =>
    simp only [hproto] at hj ⊢
    refine ⟨(j - 4) / 4, ?_⟩
    split_ifs <;> first | exact ⟨_, by omega, rfl⟩ | omega
  | single =>
    simp only [hproto] at hj ⊢
    refine ⟨j / 3, ?_⟩
    split_ifs <;> first | exact ⟨_, by omega, rfl⟩ | omega
  | pwm => simp only [hproto, not_true_eq_false] at hj

/-- The elements of a strip pixel lie in the frame buffer (44_render.md R187). -/
theorem storedElement_lt_fbCap {c : Config} {proto : Proto} {len i j : Nat} {p : Pixel} {v : Elem}
    (hlen : len ≤ Config.pixMax) (hi : i < len) (h : storedElement c proto i p j = some v) :
    j < c.fbCap := by
  have hcap := pixel_lt_fbCap (c := c) hlen hi
  unfold storedElement at h
  cases proto with
  | clocked => simp only at h; split_ifs at h <;> omega
  | single => simp only at h; split_ifs at h <;> omega
  | pwm => cases h

/-! ### One pixel -/

section putPixel

variable {i : Nat} {p : Pixel} {s : State}

theorem putPixel_of_le (h : s.len.toNat ≤ i) : putPixel i p s = s := if_pos h

theorem putPixel_of_clocked (hi : i < s.len.toNat) (h : s.proto = .clocked) :
    putPixel i p s = putClocked i p s := by
  simp only [putPixel, Nat.not_le.2 hi, if_false, h]

theorem putPixel_of_single (hi : i < s.len.toNat) (h : s.proto = .single) :
    putPixel i p s = putSingle i p s := by
  simp only [putPixel, Nat.not_le.2 hi, if_false, h]

theorem putPixel_of_pwm (hi : i < s.len.toNat) (h : s.proto = .pwm) :
    putPixel i p s = s.setDuty p := by
  simp only [putPixel, Nat.not_le.2 hi, if_false, h]

/-- A pixel write reaches no element that is not its pixel's own, whatever its colour. -/
theorem read_putPixel_of_none {j : Nat} (h : Memory.wf emptyElem s.fb)
    (hnone : i < s.len.toNat → storedElement s.cfg s.proto i p j = none) :
    Memory.read emptyElem (putPixel i p s).fb j = Memory.read emptyElem s.fb j := by
  rcases Nat.lt_or_ge i s.len.toNat with hi | hi
  · have hw {t : State} (k : Nat) (v : Elem) (ht : Memory.wf emptyElem t.fb) := writeFb_wf t k v ht
    have hnone := hnone hi
    cases hproto : s.proto with
    | clocked =>
      simp only [hproto, storedElement] at hnone
      split_ifs at hnone with h0 h1 h2 h3
      rw [putPixel_of_clocked hi hproto, putClocked,
        read_writeFb_of_ne _ (hw _ _ (hw _ _ (hw _ _ h))) h3,
        read_writeFb_of_ne _ (hw _ _ (hw _ _ h)) h2, read_writeFb_of_ne _ (hw _ _ h) h1,
        read_writeFb_of_ne _ h h0]
    | single =>
      simp only [hproto, storedElement] at hnone
      split_ifs at hnone with h0 h1 h2
      rw [putPixel_of_single hi hproto, putSingle, read_writeFb_of_ne _ (hw _ _ (hw _ _ h)) h2,
        read_writeFb_of_ne _ (hw _ _ h) h1, read_writeFb_of_ne _ h h0]
    | pwm => rw [putPixel_of_pwm hi hproto, State.setDuty_fb]
  · rw [putPixel_of_le hi]

end putPixel

theorem exec_setPixel (idx : BitVec 16) (s : State) :
    exec (.setPixel idx) s = .next (putPixel idx.toNat s.pix s) := rfl

/-- Settles O49: SET_PIXEL is one pixel write in the colour of `PIX_*`. -/
theorem setPixelWritesOnePixel : Obligations.SetPixelWritesOnePixel := by
  intro s idx hinv
  refine ⟨_, exec_setPixel idx s, putPixel_of_le, fun hi => ?_⟩
  have hread (j : Nat) :=
    readFb_putPixel idx.toNat s.pix s j hinv.fb.1 hinv.cfg.bright hinv.pix hinv.len
  simp only [if_pos hi] at hread
  refine ⟨putPixel_sameButPixels _ _ _, fun j v hv => ?own, fun j hnone => ?other, ?duty⟩
  case own => rw [hread, hv, Option.getD_some]
  case other => rw [hread, hnone, Option.getD_none]
  case duty => simp only [putPixel_duty, hi, and_true]

end Sys2Proof.Machine

/-! The patterns: each fill, and ALL_OFF, is a strip of pixel writes whose colours are known before
it starts (44_render.md R192 to R200). -/

namespace Sys2Proof.Machine

open Sys2Proof

/-! ### A strip of pixel writes -/

/-- The pixels `0` to `n - 1`, in ascending order, in the colours `colour`. -/
def putStrip (n : Nat) (colour : Nat → Pixel) (s : State) : State :=
  forBelow n (fun i t => putPixel i (colour i) t) s

theorem putStrip_congr {n : Nat} {colour colour' : Nat → Pixel} {s : State}
    (h : ∀ i, i < n → colour i = colour' i) : putStrip n colour s = putStrip n colour' s :=
  forBelow_congr fun i t hi => congrArg (putPixel i · t) (h i hi)

/-- Loops agree whose passes agree on the states that the passes keep to. -/
theorem forBelow_congr_of_kept {P : State → Prop} {n : Nat} {body body' : Nat → State → State}
    {s : State} (h0 : P s) (hkeep : ∀ i t, P t → P (body' i t))
    (h : ∀ i t, i < n → P t → body i t = body' i t) : forBelow n body s = forBelow n body' s := by
  induction n with
  | zero => rfl
  | succ n ih =>
    have hP : P (forBelow n body' s) := forBelow_induction h0 fun i t _ => hkeep i t
    simp only [forBelow]
    rw [ih fun i t hi => h i t (Nat.lt_succ_of_lt hi), h n _ (Nat.lt_succ_self n) hP]

theorem State.sameButPixels.conv_eq {s t : State} (h : s.sameButPixels t) (x : Hsv) :
    conv t x = conv s x := by
  rw [h]; rfl

theorem State.sameButPixels.len_eq {s t : State} (h : s.sameButPixels t) : t.len = s.len := by
  rw [h]; rfl

theorem State.sameButPixels.proto_eq {s t : State} (h : s.sameButPixels t) :
    t.proto = s.proto := by
  rw [h]; rfl

theorem State.sameButPixels.spr_eq {s t : State} (h : s.sameButPixels t) : t.spr = s.spr := by
  rw [h]; rfl

/-- A fill whose positions no pixel write changes converts as on the state before it
(44_render.md R193). -/
theorem forBelow_renderPixel_eq_putStrip {s : State} (n : Nat) (c d : Hsv)
    {x : State → Nat → F32} (hx : ∀ t, s.sameButPixels t → x t = x s) :
    forBelow n (fun i t => renderPixel i c d (x t i) t) s =
      putStrip n (fun i => conv s (hsvInterp c d (x s i))) s := by
  refine forBelow_congr_of_kept (P := s.sameButPixels) s.sameButPixels_refl
    (fun i t ht => State.sameButPixels_trans ht (putPixel_sameButPixels _ _ _)) fun i t _ ht => ?_
  rw [renderPixel, hx t ht, ht.conv_eq]

/-! ### The patterns -/

/-- How many pixels a pattern draws: FILL_RANDOM stops at the shorter of the strip and the bank
(44_render.md R199). -/
def patternCount (s : State) : Pattern → Nat
  | .random => min s.len.toNat s.nspr.toNat
  | .allOff | .gradient | .dual | .triangle => s.len.toNat

/-- The colour that a pattern of start colour `c` and end colour `d` gives pixel `i`
(44_render.md R192, R196 to R200). -/
def patternColour (s : State) (c d : Hsv) (i : Nat) : Pattern → Pixel
  | .allOff => Pixel.zero
  | .gradient => conv s (hsvInterp c d (posOf s.len.toNat i))
  | .dual => conv s (hsvInterp d c (fold (posOf s.len.toNat i)))
  | .triangle => conv s (hsvInterp d c (fold (phaseShift (posOf s.len.toNat i) s.phase)))
  | .random => conv s (hsvInterp d c (readSprite s i).value)

/-- A pattern drawn on the strip. -/
def drawPattern (p : Pattern) (c d : Hsv) (s : State) : State :=
  putStrip (patternCount s p) (fun i => patternColour s c d i p) s

theorem fillGradient_eq_drawPattern (c d : Hsv) (s : State) :
    fillGradient c d s = drawPattern .gradient c d s :=
  forBelow_renderPixel_eq_putStrip (x := fun t => posOf t.len.toNat) _ c d
    fun _ h => by rw [h.len_eq]

theorem fillGradientDual_eq_drawPattern (c d : Hsv) (s : State) :
    fillGradientDual c d s = drawPattern .dual c d s :=
  forBelow_renderPixel_eq_putStrip (x := fun t i => fold (posOf t.len.toNat i)) _ d c
    fun _ h => by rw [h.len_eq]

theorem fillTriangle_eq_drawPattern (c d : Hsv) (s : State) :
    fillTriangle c d s.phase s = drawPattern .triangle c d s :=
  forBelow_renderPixel_eq_putStrip
    (x := fun t i => fold (phaseShift (posOf t.len.toNat i) s.phase)) _ d c
    fun _ h => by rw [h.len_eq]

theorem fillRandom_eq_drawPattern (c d : Hsv) (s : State) :
    fillRandom c d s = drawPattern .random c d s :=
  forBelow_renderPixel_eq_putStrip (x := fun t i => (readSprite t i).value) _ d c
    fun _ h => funext fun i => congrArg Sprite.value (readSprite_of_spr_eq h.spr_eq i)

/-- The commands of the patterns draw them in A and B. -/
theorem exec_fillOfPattern (p : Pattern) (s : State) :
    exec (fillOfPattern p) s = .next (drawPattern p s.a s.b s) := by
  cases p with
  | allOff => rfl
  | gradient => exact congrArg Host.Outcome.next (fillGradient_eq_drawPattern s.a s.b s)
  | dual => exact congrArg Host.Outcome.next (fillGradientDual_eq_drawPattern s.a s.b s)
  | triangle => exact congrArg Host.Outcome.next (fillTriangle_eq_drawPattern s.a s.b s)
  | random => exact congrArg Host.Outcome.next (fillRandom_eq_drawPattern s.a s.b s)

/-- A frame draws the active pattern in the active colours, and then ticks the sprites where that is
pattern 4 (45_host_control.md R217). -/
theorem frameTick_eq_drawPattern (s : State) :
    frameTick s =
      if s.act.pattern = .random then
        tickSprites (drawPattern s.act.pattern s.act.startC s.act.endC s)
      else drawPattern s.act.pattern s.act.startC s.act.endC s := by
  unfold frameTick
  cases s.act.pattern with
  | allOff => rfl
  | gradient => exact fillGradient_eq_drawPattern _ _ s
  | dual => exact fillGradientDual_eq_drawPattern _ _ s
  | triangle => exact fillTriangle_eq_drawPattern _ _ s
  | random => exact congrArg tickSprites (fillRandom_eq_drawPattern _ _ s)

/-! ### What a pattern leaves -/

theorem patternCount_le (s : State) (p : Pattern) : patternCount s p ≤ s.len.toNat := by
  cases p with
  | random => exact min_le_left _ _
  | allOff | gradient | dual | triangle => exact le_rfl

theorem patternColour_fits {s : State} (h : elemsOk s.cfg (s.cfg.chMax + 1) s.gamma) (c d : Hsv)
    (i : Nat) (p : Pattern) : (patternColour s c d i p).Fits s.cfg := by
  cases p with
  | allOff => exact Pixel.zero_fits _
  | gradient | dual | triangle | random => exact conv_fits s _ h

theorem drawPattern_leavesPixels {s : State} (h : s.Inv) (p : Pattern) (c d : Hsv) :
    leavesPixels s (drawPattern p c d s) (patternCount s p) (fun i => patternColour s c d i p) :=
  (forBelow_putPixel_leavesPixels s _ _ h.fb.1 h.cfg.bright
    (fun i => patternColour_fits h.gamma c d i p) h.len (patternCount_le s p)).2

/-- Settles O50: ALL_OFF is the pattern of black, which no gamma stage converts. -/
theorem allOffBlackensPixels : Obligations.AllOffBlackensPixels := fun s h =>
  ⟨_, exec_fillOfPattern .allOff s, drawPattern_leavesPixels h .allOff s.a s.b⟩

/-- Settles O51: the colours of the gradient, by position. -/
theorem fillGradientRendersPositions : Obligations.FillGradientRendersPositions := fun s h =>
  ⟨_, exec_fillOfPattern .gradient s, drawPattern_leavesPixels h .gradient s.a s.b⟩

/-- Settles O52: the colours of the dual gradient, by folded position. -/
theorem fillGradientDualRendersFold : Obligations.FillGradientDualRendersFold := fun s h =>
  ⟨_, exec_fillOfPattern .dual s, drawPattern_leavesPixels h .dual s.a s.b⟩

/-- Settles O53: the colours of the triangle, by shifted and folded position. -/
theorem fillTriangleRendersShiftedFold : Obligations.FillTriangleRendersShiftedFold := fun s h =>
  ⟨_, exec_fillOfPattern .triangle s, drawPattern_leavesPixels h .triangle s.a s.b⟩

/-- Settles O54: the colours of the sprites; a pixel write leaves the bank and `SEED`. -/
theorem fillRandomRendersSprites : Obligations.FillRandomRendersSprites := fun s h =>
  ⟨_, exec_fillOfPattern .random s, drawPattern_leavesPixels h .random s.a s.b⟩

end Sys2Proof.Machine

/-! What commands leave alone in the frame buffer: all but the pixels of the strip, which ALL_OFF
writes over (44_render.md R184, R185, R192, R201). -/

namespace Sys2Proof.Machine

open Sys2Proof

/-! ### Outside the pixels -/

/-- The strip is the same and nothing but its pixels is drawn: `FB` outside them is unchanged, and
`DUTY_*` too unless they are the one pixel of analog PWM (44_render.md R185, R190). -/
structure RedrawsStrip (s t : State) : Prop where
  cfg : t.cfg = s.cfg
  len : t.len = s.len
  proto : t.proto = s.proto
  wf : Memory.wf emptyElem t.fb
  outside : ∀ j, outsidePixels s j →
    Memory.read emptyElem t.fb j = Memory.read emptyElem s.fb j
  duty : ¬ (s.proto = .pwm ∧ 0 < s.len.toNat) → t.duty = s.duty

/-- What `RedrawsStrip` is about: a command that keeps all of it redraws nothing. -/
def State.display (s : State) : Config × BitVec 11 × Proto × Memory Elem × Pixel :=
  (s.cfg, s.len, s.proto, s.fb, s.duty)

theorem RedrawsStrip.of_display_eq {s t : State} (hw : Memory.wf emptyElem s.fb)
    (h : t.display = s.display) : RedrawsStrip s t := by
  simp only [State.display, Prod.mk.injEq] at h
  obtain ⟨hcfg, hlen, hproto, hfb, hduty⟩ := h
  exact ⟨hcfg, hlen, hproto, hfb ▸ hw, fun j _ => by rw [hfb], fun _ => hduty⟩

theorem outsidePixels_congr {s t : State} (hlen : t.len = s.len) (hproto : t.proto = s.proto)
    {j : Nat} : outsidePixels t j ↔ outsidePixels s j := by
  unfold outsidePixels
  rw [hlen, hproto]

theorem RedrawsStrip.trans {s t u : State} (h : RedrawsStrip s t) (h' : RedrawsStrip t u) :
    RedrawsStrip s u where
  cfg := h'.cfg.trans h.cfg
  len := h'.len.trans h.len
  proto := h'.proto.trans h.proto
  wf := h'.wf
  outside := fun j hj =>
    (h'.outside j ((outsidePixels_congr h.len h.proto).2 hj)).trans (h.outside j hj)
  duty := fun hn => (h'.duty (by rwa [h.len, h.proto])).trans (h.duty hn)

theorem RedrawsStrip.readFb_eq {s t : State} (h : RedrawsStrip s t) {j : Nat}
    (hj : outsidePixels s j) : readFb t j = readFb s j :=
  readFb_congr h.cfg (h.outside j hj)

/-! ### The commands -/

theorem putPixel_redrawsStrip {s : State} (h : Memory.wf emptyElem s.fb) (i : Nat) (p : Pixel) :
    RedrawsStrip s (putPixel i p s) := by
  have hframe := putPixel_sameButPixels i p s
  refine ⟨hframe.cfg_eq, hframe.len_eq, hframe.proto_eq, putPixel_wf i p s h,
    fun j hj => read_putPixel_of_none h (storedElement_of_outsidePixels p hj), fun hn => ?_⟩
  rw [putPixel_duty, if_neg fun hp => hn ⟨hp.1, Nat.zero_lt_of_lt hp.2⟩]

theorem drawPattern_redrawsStrip {s : State} (h : Memory.wf emptyElem s.fb) (p : Pattern)
    (c d : Hsv) : RedrawsStrip s (drawPattern p c d s) :=
  forBelow_induction (P := RedrawsStrip s) (.of_display_eq h rfl)
    fun i _ _ ht => ht.trans (putPixel_redrawsStrip ht.wf i _)

theorem State.sameButBank.display_eq {s t : State} (h : s.sameButBank t) :
    t.display = s.display := by
  rw [h]; rfl

theorem State.setRndF_display (s : State) (v : F32) : (s.setRndF v).display = s.display := rfl

theorem adoptMessage_display (m : Message) (s : State) :
    (adoptMessage m s).display = s.display := by
  unfold adoptMessage
  split <;> rfl

theorem frameTick_redrawsStrip {s : State} (h : Memory.wf emptyElem s.fb) :
    RedrawsStrip s (frameTick s) := by
  have hdraw := drawPattern_redrawsStrip h s.act.pattern s.act.startC s.act.endC
  rw [frameTick_eq_drawPattern]
  split
  · exact hdraw.trans (.of_display_eq hdraw.wf (tickSprites_sameButBank _).display_eq)
  · exact hdraw

/-- Every command but REND_INIT keeps the strip and writes at most its pixels. -/
theorem exec_redrawsStrip {i : Instr} {s t : State} (hw : Memory.wf emptyElem s.fb)
    (h : exec i s = .next t) (hi : ∀ len proto, i ≠ .rendInit len proto) : RedrawsStrip s t := by
  have pattern (p : Pattern) (h : exec (fillOfPattern p) s = .next t) : RedrawsStrip s t := by
    rw [exec_fillOfPattern] at h
    cases h
    exact drawPattern_redrawsStrip hw p _ _
  cases i with
  | allOff => exact pattern .allOff h
  | fillGradient => exact pattern .gradient h
  | fillGradientDual => exact pattern .dual h
  | fillTriangle => exact pattern .triangle h
  | fillRandom => exact pattern .random h
  | setPixel idx => cases h; exact putPixel_redrawsStrip hw _ _
  | frameTick => cases h; exact frameTick_redrawsStrip hw
  | rendInit len proto => exact absurd rfl (hi len proto)
  | hsv2rgb | hsvInterp | scale | mapRange => cases h; exact .of_display_eq hw rfl
  | lcgNext => cases h; exact .of_display_eq hw (genNext_sameButBank s).display_eq
  | lcgNextF =>
    cases h
    exact .of_display_eq hw ((State.setRndF_display _ _).trans (genNext_sameButBank s).display_eq)
  | sprInit n =>
    cases h
    exact .of_display_eq hw (forBelow_sameButBank (n := countOperand n Config.nMax) (s := s)
      initSprite_sameButBank).display_eq
  | sprTick => cases h; exact .of_display_eq hw (tickSprites_sameButBank s).display_eq
  | msgLoad =>
    simp only [exec, execMsgLoad] at h
    split at h
    · cases h; exact .of_display_eq hw (adoptMessage_display _ s)
    · cases h; exact .of_display_eq hw rfl

/-- Settles O14: what a command redraws lies in the pixels of the strip. -/
theorem onlyRendInitChangesFraming : Obligations.OnlyRendInitChangesFraming :=
  fun _ _ _ _ hinv h hi hj => (exec_redrawsStrip hinv.fb.1 h hi).readFb_eq hj

/-! ### ALL_OFF -/

theorem exec_allOff (s : State) : exec .allOff s = .next (allOff s) := rfl

theorem allOff_leavesPixels {s : State} (h : Memory.wf emptyElem s.fb)
    (hbright : s.cfg.bright.toNat ≤ s.cfg.chMax) (hlen : s.len.toNat ≤ Config.pixMax) :
    leavesPixels s (allOff s) s.len.toNat fun _ => Pixel.zero :=
  (forBelow_putPixel_leavesPixels s _ _ h hbright (fun _ => Pixel.zero_fits _) hlen le_rfl).2

/-- ALL_OFF forgets what was drawn on the strip: the pixels become black and the rest is as it
was. -/
theorem allOff_eq_of_redrawsStrip {s u : State} (hs : s.Inv) (h : RedrawsStrip s u) :
    (allOff u).fb = (allOff s).fb ∧ (allOff u).duty = (allOff s).duty := by
  have hoff {t : State} (ht : Memory.wf emptyElem t.fb) : RedrawsStrip t (allOff t) :=
    drawPattern_redrawsStrip ht .allOff t.a t.b
  have hsOff := hoff hs.fb.1
  have huOff := h.trans (hoff h.wf)
  obtain ⟨-, hsIn, -, hsDuty⟩ := allOff_leavesPixels hs.fb.1 hs.cfg.bright hs.len
  obtain ⟨-, huIn, -, huDuty⟩ :=
    allOff_leavesPixels h.wf (h.cfg ▸ hs.cfg.bright) (h.len ▸ hs.len)
  simp only [h.cfg, h.len, h.proto] at huIn huDuty
  constructor
  · refine Memory.ext_read _ _ huOff.wf hsOff.wf fun j => ?_
    by_cases hj : outsidePixels s j
    · rw [huOff.outside j hj, hsOff.outside j hj]
    · obtain ⟨i, v, hi, hv⟩ := exists_storedElement_of_not_outsidePixels Pixel.zero hj
      have hcap := storedElement_lt_fbCap hs.len hi hv
      rw [← readFb_of_lt (huOff.cfg ▸ hcap), ← readFb_of_lt (hsOff.cfg ▸ hcap),
        huIn i j v hi hv, hsIn i j v hi hv]
  · rw [huDuty, hsDuty]
    split
    · rfl
    · next hn => exact h.duty hn

theorem setPixels_redrawsStrip (ps : List (BitVec 16 × Pixel)) {s : State}
    (hw : Memory.wf emptyElem s.fb) : ∃ u, setPixels ps s = .next u ∧ RedrawsStrip s u := by
  induction ps generalizing s with
  | nil => exact ⟨s, rfl, .of_display_eq hw rfl⟩
  | cons e ps ih =>
    obtain ⟨idx, p⟩ := e
    have hset : RedrawsStrip s (s.setPix p) := .of_display_eq hw rfl
    have hput := hset.trans (putPixel_redrawsStrip hset.wf idx.toNat p)
    obtain ⟨u, hu, hrest⟩ := ih hput.wf
    exact ⟨u, hu, hput.trans hrest⟩

/-- Settles O58: the SET_PIXELs redraw the strip alone, and the second ALL_OFF forgets that, as the
first forgot what was there before. -/
theorem allOffRoundTrip : Obligations.AllOffRoundTrip := by
  intro s ps hinv
  have hoff : RedrawsStrip s (allOff s) := drawPattern_redrawsStrip hinv.fb.1 .allOff s.a s.b
  obtain ⟨u, hu, hset⟩ := setPixels_redrawsStrip ps hoff.wf
  exact ⟨allOff s, u, allOff u, exec_allOff s, hu, exec_allOff u,
    allOff_eq_of_redrawsStrip hinv (hoff.trans hset)⟩

end Sys2Proof.Machine

/-! The positions on the strip: its ends and its middle, the fold and the shift by `PHASE` = 0.0
(44_render.md R195 to R198, R201, R202). -/

namespace Sys2Proof.Machine

open Sys2Proof

/-! ### Positions -/

/-- A quotient of whole numbers that is a float is not rounded. -/
theorem fdiv_i2f_of_exact {m n : Nat} {q : F32} (hm : m ≤ 2 ^ 24) (hn : n ≤ 2 ^ 24) (hpos : 0 < n)
    (hq : q.toNat ≤ infBits) (h : m * 2 ^ 149 = scaledMag q.toNat * n) :
    fdiv (i2f m) (i2f n) = q := by
  obtain ⟨hm_lt, hm_mag⟩ := i2f_of_le hm
  obtain ⟨hn_lt, hn_mag⟩ := i2f_of_le hn
  have hn_ne : 0 < (i2f n).toNat := by
    rw [← scaledMag_strictMono.lt_iff_lt, hn_mag, scaledMag_zero]
    positivity
  rw [fdiv_pos hm_lt hn_lt hn_ne, hm_mag, hn_mag, h, Nat.mul_assoc,
    roundMag_exact _ _ (by positivity) hq, mkFloat_toNat hq]

section position

variable {len i : Nat}

theorem posOf_of_ne_one (h : len ≠ 1) : posOf len i = fdiv (i2f i) (i2f (len - 1)) := if_neg h

theorem posOf_zero (hpos : 1 ≤ len) (hmax : len ≤ Config.pixMax) : posOf len 0 = 0#32 := by
  unfold Config.pixMax at hmax
  by_cases h1 : len = 1
  · exact if_pos h1
  · rw [posOf_of_ne_one h1]
    refine fdiv_i2f_of_exact (by omega) (by omega) (by omega) (by decide) ?_
    rw [Nat.zero_mul, show (0#32).toNat = 0 from rfl, scaledMag_zero, Nat.zero_mul]

theorem posOf_last (h2 : 2 ≤ len) (hmax : len ≤ Config.pixMax) : posOf len (len - 1) = fOne := by
  unfold Config.pixMax at hmax
  rw [posOf_of_ne_one (by omega)]
  refine fdiv_i2f_of_exact (by omega) (by omega) (by omega) (by decide) ?_
  rw [show fOne.toNat = 0x3F800000 from rfl, scaledMag_one, Nat.mul_comm]

/-- `0.5`, the position of the middle pixel. -/
def fHalf : F32 := 0x3F000000#32

theorem scaledMag_half : scaledMag fHalf.toNat = 2 ^ 148 := by decide +kernel

theorem posOf_middle (h3 : 3 ≤ len) (hodd : len % 2 = 1) (hmax : len ≤ Config.pixMax) :
    posOf len ((len - 1) / 2) = fHalf := by
  unfold Config.pixMax at hmax
  rw [posOf_of_ne_one (by omega)]
  refine fdiv_i2f_of_exact (by omega) (by omega) (by omega) (by decide) ?_
  rw [scaledMag_half]
  omega

theorem posOf_inUnit (hi : i < len) (hmax : len ≤ Config.pixMax) : inUnit (posOf len i) := by
  unfold Config.pixMax at hmax
  by_cases h1 : len = 1
  · rw [posOf, if_pos h1]
    exact inUnit_zero
  · rw [posOf_of_ne_one h1]
    exact fdiv_i2f_inUnit (by omega) (by omega) (by omega)

end position

/-! ### The fold and the shift -/

theorem fold_zero : fold 0#32 = fOne := by decide +kernel

theorem fold_one : fold fOne = fOne := by decide +kernel

theorem fold_half : fold fHalf = 0#32 := by decide +kernel

theorem fadd_zero_right {p : F32} (hp : p.toNat < infBits) : fadd p 0#32 = p := by
  have hround := roundMag_exact p.toNat 1 Nat.one_pos hp.le
  rw [Nat.mul_one] at hround
  rw [fadd_pos hp inUnit_zero.lt_inf, show (0#32).toNat = 0 from rfl, scaledMag_zero, Nat.add_zero,
    hround, mkFloat_toNat hp.le]

theorem ffloor_of_lt_one {p : F32} (hp : inUnit p) (hne : p ≠ fOne) : ffloor p = 0#32 := by
  have hlt : p.toNat < 0x3F800000 := lt_of_le_of_ne hp fun h => hne (BitVec.eq_of_toNat_eq h)
  have hmag := scaledMag_strictMono hlt
  rw [scaledMag_one] at hmag
  rw [ffloor_pos hp.lt_inf, Nat.div_eq_of_lt hmag, Nat.zero_mul, roundMag_zero 1 Nat.one_pos]
  rfl

theorem phaseShift_zero_of_ne_one {p : F32} (hp : inUnit p) (hne : p ≠ fOne) :
    phaseShift p 0#32 = p := by
  rw [phaseShift, fadd_zero_right hp.lt_inf, ffloor_of_lt_one hp hne, fsub_zero_right hp.lt_inf]

theorem phaseShift_one_zero : phaseShift fOne 0#32 = 0#32 := by decide +kernel

/-- The shift by 0.0 takes 1.0 to 0.0, which folds alike, and nothing else anywhere (R202). -/
theorem fold_phaseShift_zero {p : F32} (hp : inUnit p) : fold (phaseShift p 0#32) = fold p := by
  by_cases h1 : p = fOne
  · rw [h1, phaseShift_one_zero, fold_zero, fold_one]
  · rw [phaseShift_zero_of_ne_one hp h1]

/-- Settles O57: the two patterns are strips of the same colours. -/
theorem triangleAtPhaseZeroIsDualGradient : Obligations.TriangleAtPhaseZeroIsDualGradient := by
  refine ⟨fun s hinv hphase => ?_, fun p hp hne => ⟨fadd_zero_right hp.lt_inf,
    ffloor_of_lt_one hp hne, phaseShift_zero_of_ne_one hp hne⟩, phaseShift_one_zero, fold_zero,
    fold_one⟩
  have hcolour (i : Nat) (hi : i < s.len.toNat) :
      patternColour s s.a s.b i .triangle = patternColour s s.a s.b i .dual := by
    simp only [patternColour, hphase, fold_phaseShift_zero (posOf_inUnit hi hinv.len)]
  calc exec .fillTriangle s
      = .next (drawPattern .triangle s.a s.b s) := exec_fillOfPattern .triangle s
    _ = .next (drawPattern .dual s.a s.b s) := congrArg Host.Outcome.next (putStrip_congr hcolour)
    _ = exec .fillGradientDual s := (exec_fillOfPattern .dual s).symm

/-! ### What a pixel shows -/

/-- Each pixel written shows its colour; with analog PWM the last one does. -/
theorem leavesPixels.pixelAt_eq {s t : State} {n i : Nat} {colour : Nat → Pixel}
    (h : leavesPixels s t n colour) (hi : i < n) (hpwm : s.proto = .pwm → n ≤ 1) :
    pixelAt t i = colour i := by
  obtain ⟨hframe, hin, -, hduty⟩ := h
  have hin (j : Nat) (v : Elem) := hin i j v hi
  unfold pixelAt
  rw [hframe.proto_eq]
  cases hp : s.proto with
  | clocked =>
    simp only [hp, storedElement] at hin ⊢
    rw [hin _ (colour i).r (by simp), hin _ (colour i).g (by simp), hin _ (colour i).b (by simp)]
  | single =>
    simp only [hp, storedElement] at hin ⊢
    rw [hin _ (colour i).r (by simp), hin _ (colour i).g (by simp), hin _ (colour i).b (by simp)]
  | pwm =>
    have hn := hpwm hp
    simp only [hduty, hp, Nat.zero_lt_of_lt hi, and_self, if_true, show n - 1 = i by omega]

theorem pixelAt_drawPattern {s : State} (h : s.Inv) {p : Pattern} (c d : Hsv) {i : Nat}
    (hi : i < patternCount s p) : pixelAt (drawPattern p c d s) i = patternColour s c d i p :=
  (drawPattern_leavesPixels h p c d).pixelAt_eq hi fun hp =>
    (patternCount_le s p).trans (h.lenPwm hp)

/-- Settles O55: the ends of the strip are at 0.0 and at 1.0. -/
theorem gradientEndsAreExact : Obligations.GradientEndsAreExact := by
  intro s hinv hpos
  have hpixel (i : Nat) (hi : i < s.len.toNat) :
      pixelAt (drawPattern .gradient s.a s.b s) i =
        conv s (hsvInterp s.a s.b (posOf s.len.toNat i)) :=
    pixelAt_drawPattern hinv (p := .gradient) s.a s.b hi
  refine ⟨_, exec_fillOfPattern .gradient s, ?first, fun h2 => ?last⟩
  case first => rw [hpixel _ (by omega), posOf_zero hpos hinv.len, hsvInterp_at_zero hinv.a hinv.b]
  case last => rw [hpixel _ (by omega), posOf_last h2 hinv.len, hsvInterp_at_one]

/-- Settles O56: the ends of the strip fold to 1.0, the middle to 0.0. -/
theorem dualGradientEndsAndMiddleAreExact : Obligations.DualGradientEndsAndMiddleAreExact := by
  intro s hinv hpos
  have hpixel (i : Nat) (hi : i < s.len.toNat) :
      pixelAt (drawPattern .dual s.a s.b s) i =
        conv s (hsvInterp s.b s.a (fold (posOf s.len.toNat i))) :=
    pixelAt_drawPattern hinv (p := .dual) s.a s.b hi
  have hfirst : pixelAt (drawPattern .dual s.a s.b s) 0 = conv s s.a := by
    rw [hpixel _ (by omega), posOf_zero hpos hinv.len, fold_zero, hsvInterp_at_one]
  refine ⟨_, exec_fillOfPattern .dual s, hfirst, ?last, fun h3 hodd => ?middle⟩
  case last =>
    rcases hpos.eq_or_lt with h1 | h2
    · rwa [← h1]
    · rw [hpixel _ (by omega), posOf_last h2 hinv.len, fold_one, hsvInterp_at_one]
  case middle =>
    rw [hpixel _ (by omega), posOf_middle h3 hodd hinv.len, fold_half,
      hsvInterp_at_zero hinv.b hinv.a]

end Sys2Proof.Machine

/-! The construction of a renderer: the framing element by element, and the ALL_OFF after it
(44_render.md R184, R186, R188). -/

namespace Sys2Proof.Machine

open Sys2Proof

/-! ### Filling the frame buffer -/

/-- `t` is `s` with a frame buffer that holds the values `f`, cut to `CW` bits. -/
structure FbHolds (s : State) (f : Nat → Elem) (t : State) : Prop where
  frame : t = s.setFb t.fb
  wf : Memory.wf emptyElem t.fb
  read : ∀ j, j < s.cfg.fbCap → readFb t j = elemCW s.cfg (f j)

theorem elemCW_zero (c : Config) : elemCW c 0#16 = 0#16 := elemCW_of_le (Nat.zero_le _)

theorem clearFb_fbHolds (s : State) : FbHolds s (fun _ => 0#16) (clearFb s) where
  frame := rfl
  wf := Memory.wf_nil _
  read := fun j _ => (readFb_clearFb s j).trans (elemCW_zero _).symm

section fill

variable {s t : State} {f g : Nat → Elem}

theorem FbHolds.cfg_eq (h : FbHolds s f t) : t.cfg = s.cfg := by
  rw [h.frame]; rfl

theorem FbHolds.congr (h : FbHolds s f t) (hfg : ∀ j, f j = g j) : FbHolds s g t :=
  funext hfg ▸ h

theorem FbHolds.writeFb (h : FbHolds s f t) (k : Nat) (v : Elem) :
    FbHolds s (Function.update f k v) (writeFb t k v) where
  frame := by
    have hframe := writeFb_frame t k v
    generalize (Machine.writeFb t k v) = u at hframe ⊢
    rw [hframe, h.frame]
    rfl
  wf := writeFb_wf t k v h.wf
  read := fun j hj => by
    rw [readFb_writeFb t k v j h.wf, h.cfg_eq]
    by_cases hk : j = k
    · subst hk
      rw [if_pos ⟨rfl, hj⟩, Function.update_self]
    · rw [if_neg fun hjk => hk hjk.1, h.read j hj, Function.update_of_ne hk]

/-- A loop that writes one value at places of its own. -/
theorem FbHolds.forBelow (h : FbHolds s f t) (n : Nat) (place : Nat → Nat) (v : Config → Elem) :
    FbHolds s (fun j => if ∃ i < n, place i = j then v s.cfg else f j)
      (forBelow n (fun i u => Machine.writeFb u (place i) (v u.cfg)) t) := by
  refine forBelow_count
    (P := fun m u => FbHolds s (fun j => if ∃ i < m, place i = j then v s.cfg else f j) u)
    (h.congr fun j => ?_) fun i u _ hu => ?_
  · simp
  · rw [hu.cfg_eq]
    refine (hu.writeFb (place i) (v s.cfg)).congr fun j => ?_
    simp only [Nat.exists_lt_succ_right, Function.update_apply]
    by_cases hj : place i = j
    · simp [hj]
    · simp [hj, Ne.symm hj]

end fill

/-- The framing, written on a clear buffer (R186). -/
theorem writeFraming_fbHolds (s : State) (p : Proto) (len : Nat) :
    FbHolds s (framedElement s.cfg p len) (writeFraming p len (clearFb s)) := by
  cases p with
  | clocked =>
    have hheader := (clearFb_fbHolds s).forBelow 4 id Config.hdrVal
    have hbright := hheader.forBelow len (4 + 4 * ·) Config.bright
    have hend := hbright.forBelow s.cfg.endLen (4 + 4 * len + ·) Config.endVal
    have hcount : (writeBrightness len (writeHeader (clearFb s))).cfg = s.cfg := hbright.cfg_eq
    rw [writeFraming, writeEndFrame, hcount]
    refine hend.congr fun j => ?_
    have iff_header : (∃ i < 4, id i = j) ↔ j < 4 :=
      ⟨fun ⟨i, hi, h⟩ => h ▸ hi, fun h => ⟨j, h, rfl⟩⟩
    have iff_bright : (∃ i < len, 4 + 4 * i = j) ↔ 4 ≤ j ∧ j < 4 + 4 * len ∧ j % 4 = 0 :=
      ⟨fun ⟨i, hi, h⟩ => by omega, fun h => ⟨(j - 4) / 4, by omega, by omega⟩⟩
    have iff_end : (∃ i < s.cfg.endLen, 4 + 4 * len + i = j) ↔
        4 + 4 * len ≤ j ∧ j < 4 + 4 * len + s.cfg.endLen :=
      ⟨fun ⟨i, hi, h⟩ => by omega, fun h => ⟨j - (4 + 4 * len), by omega, by omega⟩⟩
    simp only [framedElement, iff_header, iff_bright, iff_end]
    split_ifs <;> first | rfl | omega
  | single | pwm => exact clearFb_fbHolds s

/-! ### REND_INIT -/

theorem constructRenderer_fbHolds (len : BitVec 11) (p : Proto) (s : State) :
    ∃ t, FbHolds (s.setDuty Pixel.zero) (framedElement s.cfg p (renderLength len p)) t ∧
      constructRenderer len p s =
        setRendOk (t.setRenderer (BitVec.ofNat 11 (renderLength len p)) p) :=
  ⟨_, writeFraming_fbHolds (s.setDuty Pixel.zero) p (renderLength len p), rfl⟩

theorem constructRenderer_proto (len : BitVec 11) (p : Proto) (s : State) :
    (constructRenderer len p s).proto = p := rfl

theorem constructRenderer_len (len : BitVec 11) (p : Proto) (s : State) :
    (constructRenderer len p s).len.toNat = renderLength len p :=
  ofNat_count_toNat (renderLength_le len p)

/-- The construction of a renderer leaves all of the state but `FB`, `DUTY_*`, `LEN`, `PROTO` and
`REND_OK`. -/
theorem constructRenderer_frame (len : BitVec 11) (p : Proto) (s : State) :
    constructRenderer len p s =
      (((s.setFb (constructRenderer len p s).fb).setDuty Pixel.zero).setRenderer
        (constructRenderer len p s).len p).setStatus { s.status with rendOk := true } := by
  obtain ⟨t, ht, heq⟩ := constructRenderer_fbHolds len p s
  rw [heq, ht.frame]
  rfl

theorem constructRenderer_duty (len : BitVec 11) (p : Proto) (s : State) :
    (constructRenderer len p s).duty = Pixel.zero := by
  rw [constructRenderer_frame]
  rfl

theorem constructRenderer_wf (len : BitVec 11) (p : Proto) (s : State) :
    Memory.wf emptyElem (constructRenderer len p s).fb := by
  obtain ⟨t, ht, heq⟩ := constructRenderer_fbHolds len p s
  rw [heq]
  exact ht.wf

/-- The new frame, element by element, whatever the parameters. -/
theorem readFb_constructRenderer (len : BitVec 11) (p : Proto) (s : State) {j : Nat}
    (hj : j < s.cfg.fbCap) :
    readFb (constructRenderer len p s) j =
      elemCW s.cfg (framedElement s.cfg p (renderLength len p) j) := by
  obtain ⟨t, ht, heq⟩ := constructRenderer_fbHolds len p s
  rw [heq]
  exact ht.read j hj

theorem exec_rendInit_of_ne {p : BitVec 2} (hp : p ≠ 3#2) (len : BitVec 11) (s : State) :
    ∃ q, protoNumber q = p.toNat ∧
      exec (.rendInit len p) s = .next (constructRenderer len q s) := by
  obtain ⟨h3, -⟩ | ⟨q, hq, hnumber⟩ := protoOperand_spec p
  · exact absurd h3 hp
  · refine ⟨q, hnumber, ?_⟩
    simp only [exec, execRendInit, hq]

theorem renderLength_eq (len : BitVec 11) {p : BitVec 2} {q : Proto}
    (h : protoNumber q = p.toNat) :
    renderLength len q = if p = 2#2 then min (min len.toNat 1024) 1 else min len.toNat 1024 := by
  have hp : p = BitVec.ofNat 2 (protoNumber q) := by rw [h, BitVec.ofNat_toNat, BitVec.setWidth_eq]
  subst hp
  cases q <;> rfl

/-- With `CW`-bit parameters the framing is not cut. -/
theorem elemCW_framedElement {c : Config} (hc : c.WF) (p : Proto) (len j : Nat) :
    elemCW c (framedElement c p len j) = framedElement c p len j := by
  refine elemCW_of_le ?_
  unfold framedElement
  split
  · split_ifs
    · exact hc.hdr
    · exact hc.bright
    · exact Nat.zero_le _
    · exact hc.endv
    · exact Nat.zero_le _
  · exact Nat.zero_le _
  · exact Nat.zero_le _

/-- Beyond the elements in use a frame is 0 (R184). -/
theorem framedElement_of_used_le {c : Config} {p : Proto} {len j : Nat}
    (h : usedElements c p len ≤ j) : framedElement c p len j = 0#16 := by
  cases p with
  | clocked =>
    simp only [usedElements] at h
    simp only [framedElement]
    rw [if_neg (by omega), if_neg (by omega), if_neg (by omega)]
  | single | pwm => rfl

/-- Settles O47: the new frame, not cut, within the buffer, and 0 beyond. -/
theorem rendInitBuildsFrame : Obligations.RendInitBuildsFrame := by
  intro s len p hc hp
  obtain ⟨q, hnumber, hexec⟩ := exec_rendInit_of_ne hp len s
  have hframed (j : Nat) (hj : j < s.cfg.fbCap) :
      readFb (constructRenderer len q s) j = framedElement s.cfg q (renderLength len q) j :=
    (readFb_constructRenderer len q s hj).trans (elemCW_framedElement hc _ _ _)
  refine ⟨_, hexec, constructRenderer_frame len q s, hnumber, ?_⟩
  rw [constructRenderer_len, constructRenderer_proto]
  refine ⟨renderLength_eq len hnumber, hframed, fun j hj => ?_⟩
  by_cases hcap : j < s.cfg.fbCap
  · rw [hframed j hcap, framedElement_of_used_le hj]
  · exact if_neg (constructRenderer_cfg len q s ▸ hcap)

/-! ### ALL_OFF after it -/

/-- A pixel write of what the pixel holds changes nothing. -/
theorem putPixel_same {i : Nat} {p : Pixel} {s : State} (h : Memory.wf emptyElem s.fb)
    (hfb : ∀ j v, storedElement s.cfg s.proto i p j = some v → elemCW s.cfg v = readFb s j)
    (hduty : s.proto = .pwm → s.duty = p) : putPixel i p s = s := by
  rcases Nat.lt_or_ge i s.len.toNat with hi | hi
  · cases hproto : s.proto with
    | clocked =>
      simp only [hproto, storedElement] at hfb
      rw [putPixel_of_clocked hi hproto, putClocked, writeFb_same s _ _ h (hfb _ _ (by simp)),
        writeFb_same s _ _ h (hfb _ _ (by simp)), writeFb_same s _ _ h (hfb _ _ (by simp)),
        writeFb_same s _ _ h (hfb _ _ (by simp))]
    | single =>
      simp only [hproto, storedElement] at hfb
      rw [putPixel_of_single hi hproto, putSingle, writeFb_same s _ _ h (hfb _ _ (by simp)),
        writeFb_same s _ _ h (hfb _ _ (by simp)), writeFb_same s _ _ h (hfb _ _ (by simp))]
    | pwm =>
      rw [putPixel_of_pwm hi hproto, ← hduty hproto]
      rfl
  · exact putPixel_of_le hi

/-- The pixels of a new frame are black. -/
theorem framedElement_of_storedElement {c : Config} {p : Proto} {len i j : Nat} {v : Elem}
    (hi : i < len) (h : storedElement c p i Pixel.zero j = some v) :
    framedElement c p len j = v := by
  unfold storedElement at h
  cases p with
  | clocked =>
    simp only [Pixel.zero] at h
    simp only [framedElement]
    split_ifs at h ⊢ <;> first | omega | exact Option.some.inj h
  | single =>
    simp only [Pixel.zero] at h
    split_ifs at h <;> exact Option.some.inj h
  | pwm => cases h

/-- Settles O48: each pixel write of ALL_OFF finds the pixel as it would leave it. -/
theorem allOffAfterRendInitChangesNothing : Obligations.AllOffAfterRendInitChangesNothing := by
  intro s t len p hp ht
  obtain ⟨q, -, hexec⟩ := exec_rendInit_of_ne hp len s
  obtain rfl := Host.Outcome.next.inj (ht.symm.trans hexec)
  have hput (i : Nat) (hi : i < (constructRenderer len q s).len.toNat) :
      putPixel i Pixel.zero (constructRenderer len q s) = constructRenderer len q s := by
    refine putPixel_same (constructRenderer_wf len q s) (fun j v hv => ?_) fun _ =>
      constructRenderer_duty len q s
    rw [constructRenderer_cfg, constructRenderer_proto] at hv
    rw [constructRenderer_len] at hi
    have hcap := storedElement_lt_fbCap (renderLength_le len q) hi hv
    rw [constructRenderer_cfg, readFb_constructRenderer len q s hcap,
      framedElement_of_storedElement hi hv]
  have hloop : allOff (constructRenderer len q s) = constructRenderer len q s :=
    forBelow_induction (P := (· = constructRenderer len q s)) rfl fun i u hi hu => hu ▸ hput i hi
  rw [exec_allOff, hloop]

end Sys2Proof.Machine

/-! No command reads the frame buffer (44_render.md R182): run on any other `FB`, a command does the
same to the rest of the state, and to each element what it does here. -/

namespace Sys2Proof.Machine

open Sys2Proof

/-! ### Operations that do not read `FB` -/

/-- An operation that does not read `FB`: from any other buffer it leaves the same state beside the
buffer, and each element the same in both or in each as it was. -/
def IgnoresFb (op : State → State) : Prop :=
  ∀ (s : State) (m : Memory Elem), Memory.wf emptyElem s.fb → Memory.wf emptyElem m →
    Memory.wf emptyElem (op s).fb ∧
    ∃ m', op (s.setFb m) = (op s).setFb m' ∧ Memory.wf emptyElem m' ∧
      ∀ j, Memory.read emptyElem m' j = Memory.read emptyElem (op s).fb j ∨
        (Memory.read emptyElem m' j = Memory.read emptyElem m j ∧
          Memory.read emptyElem (op s).fb j = Memory.read emptyElem s.fb j)

theorem IgnoresFb.comp {op op' : State → State} (h : IgnoresFb op) (h' : IgnoresFb op') :
    IgnoresFb fun s => op' (op s) := by
  intro s m hs hm
  obtain ⟨hw1, m1, heq1, hm1, hread1⟩ := h s m hs hm
  obtain ⟨hw2, m2, heq2, hm2, hread2⟩ := h' (op s) m1 hw1 hm1
  refine ⟨hw2, m2, (congrArg op' heq1).trans heq2, hm2, fun j => ?_⟩
  rcases hread2 j with hsame | ⟨hkept, hkept'⟩
  · exact .inl hsame
  · rw [hkept, hkept']
    exact hread1 j

/-- An operation that neither reads nor writes `FB`. -/
theorem IgnoresFb.of_commute {op : State → State} (h : ∀ s m, op (s.setFb m) = (op s).setFb m) :
    IgnoresFb op := by
  intro s m hs hm
  have hself : op s = (op s).setFb s.fb := h s s.fb
  have hfb : (op s).fb = s.fb := by rw [hself, State.setFb_fb]
  exact ⟨hfb ▸ hs, m, h s m, hm, fun j => .inr ⟨rfl, by rw [hfb]⟩⟩

/-- What an operation does may depend on all of the state but `FB`. -/
theorem IgnoresFb.of_agree {op : State → State}
    (h : ∀ s : State, ∃ op', IgnoresFb op' ∧ ∀ m, op (s.setFb m) = op' (s.setFb m)) :
    IgnoresFb op := by
  intro s m hs hm
  obtain ⟨op', hop, heq⟩ := h s
  have hself : op s = op' s := heq s.fb
  rw [hself, heq m]
  exact hop s m hs hm

theorem forBelow_ignoresFb {body : Nat → State → State} (h : ∀ i, IgnoresFb (body i)) (n : Nat) :
    IgnoresFb (forBelow n body) := by
  induction n with
  | zero => exact .of_commute fun _ _ => rfl
  | succ n ih => exact ih.comp (h n)

theorem forBelow_setFb {body : Nat → State → State}
    (h : ∀ i s m, body i (s.setFb m) = (body i s).setFb m) (n : Nat) (s : State)
    (m : Memory Elem) : forBelow n body (s.setFb m) = (forBelow n body s).setFb m := by
  induction n with
  | zero => rfl
  | succ n ih => exact (congrArg (body n) ih).trans (h n _ m)

/-! ### Pixels -/

theorem writeFb_ignoresFb (k : Nat) (v : Elem) : IgnoresFb fun s => writeFb s k v := by
  intro s m hs hm
  refine ⟨writeFb_wf s k v hs, ?_⟩
  by_cases hk : k < s.cfg.fbCap
  · refine ⟨Memory.write emptyElem m k (elemCW s.cfg v), ?_, Memory.wf_write _ _ _ hm, fun j => ?_⟩
    · simp only [writeFb, State.setFb_cfg, hk, if_true]
      rfl
    · simp only [writeFb, hk, if_true, State.setFb_fb, Memory.read_write _ _ _ _ hs,
        Memory.read_write _ _ _ _ hm]
      by_cases hj : j = k
      · simp only [hj, if_true, true_or]
      · simp only [hj, if_false, and_self, or_true]
  · refine ⟨m, ?_, hm, fun j => .inr ⟨rfl, ?_⟩⟩ <;>
      simp only [writeFb, State.setFb_cfg, hk, if_false]

theorem putClocked_ignoresFb (i : Nat) (p : Pixel) : IgnoresFb (putClocked i p) :=
  .of_agree fun s =>
    ⟨_, (((writeFb_ignoresFb (4 + 4 * i) s.cfg.bright).comp
      (writeFb_ignoresFb (4 + 4 * i + 1) p.b)).comp (writeFb_ignoresFb (4 + 4 * i + 2) p.g)).comp
      (writeFb_ignoresFb (4 + 4 * i + 3) p.r),
      fun _ => by rw [putClocked, State.setFb_cfg]⟩

theorem putSingle_ignoresFb (i : Nat) (p : Pixel) : IgnoresFb (putSingle i p) :=
  ((writeFb_ignoresFb (3 * i) p.r).comp (writeFb_ignoresFb (3 * i + 1) p.g)).comp
    (writeFb_ignoresFb (3 * i + 2) p.b)

theorem putPixel_ignoresFb (i : Nat) (p : Pixel) : IgnoresFb (putPixel i p) := by
  refine .of_agree fun s => ?_
  rcases Nat.lt_or_ge i s.len.toNat with hi | hi
  · cases hproto : s.proto with
    | clocked =>
      exact ⟨_, putClocked_ignoresFb i p, fun m => putPixel_of_clocked (s := s.setFb m) hi hproto⟩
    | single =>
      exact ⟨_, putSingle_ignoresFb i p, fun m => putPixel_of_single (s := s.setFb m) hi hproto⟩
    | pwm =>
      exact ⟨(State.setDuty · p), .of_commute fun _ _ => rfl,
        fun m => putPixel_of_pwm (s := s.setFb m) hi hproto⟩
  · exact ⟨id, .of_commute fun _ _ => rfl, fun m => putPixel_of_le (s := s.setFb m) hi⟩

theorem putStrip_ignoresFb (n : Nat) (colour : Nat → Pixel) : IgnoresFb (putStrip n colour) :=
  forBelow_ignoresFb (fun i => putPixel_ignoresFb i (colour i)) n

theorem patternCount_setFb (s : State) (m : Memory Elem) (p : Pattern) :
    patternCount (s.setFb m) p = patternCount s p := by
  cases p <;> rfl

theorem patternColour_setFb (s : State) (m : Memory Elem) (c d : Hsv) (i : Nat) (p : Pattern) :
    patternColour (s.setFb m) c d i p = patternColour s c d i p := by
  cases p <;> rfl

/-- The colours of a pattern do not come from `FB`. -/
theorem drawPattern_ignoresFb (p : Pattern) (c d : Hsv) : IgnoresFb (drawPattern p c d) :=
  .of_agree fun s =>
    ⟨putStrip (patternCount s p) (fun i => patternColour s c d i p), putStrip_ignoresFb _ _,
      fun _ => by simp only [drawPattern, patternCount_setFb, patternColour_setFb]⟩

/-! ### Sprites -/

theorem genNext_setFb (s : State) (m : Memory Elem) :
    genNext (s.setFb m) = (genNext s).setFb m :=
  congrArg (fun n => (s.setFb m).setSeed (BitVec.ofNat 32 (lcgStep n))
    (BitVec.ofNat 32 (lcgStep n / 2 ^ 32))) (rfl : seedOf (s.setFb m) = seedOf s)

theorem drawValue_setFb (s : State) (m : Memory Elem) : drawValue (s.setFb m) = drawValue s :=
  congrArg (fun n => drawOfSeed (lcgStep n)) (rfl : seedOf (s.setFb m) = seedOf s)

theorem State.setRndF_setFb (s : State) (m : Memory Elem) (v : F32) :
    (s.setFb m).setRndF v = (s.setRndF v).setFb m := rfl

theorem writeSprite_setFb (s : State) (k : Nat) (v : Sprite) (m : Memory Elem) :
    writeSprite (s.setFb m) k v = (writeSprite s k v).setFb m := by
  unfold writeSprite
  split <;> rfl

theorem initSprite_setFb (k : Nat) (s : State) (m : Memory Elem) :
    initSprite k (s.setFb m) = (initSprite k s).setFb m := by
  simp only [initSprite, newSprite, scaledValue, scaledStep, genNext_setFb, drawValue_setFb,
    writeSprite_setFb, State.setFb_vscale, State.setFb_sscale]

theorem updateSprite_setFb (k : Nat) (s : State) (m : Memory Elem) :
    updateSprite k (s.setFb m) = (updateSprite k s).setFb m := by
  have hread : readSprite (s.setFb m) k = readSprite s k := readSprite_of_spr_eq rfl k
  simp only [updateSprite, hread, retarget, scaledValue, scaledStep, genNext_setFb,
    drawValue_setFb, writeSprite_setFb, State.setFb_vscale, State.setFb_sscale,
    apply_ite (State.setFb · m)]

theorem tickSprites_ignoresFb : IgnoresFb tickSprites :=
  .of_commute fun s m => forBelow_setFb updateSprite_setFb s.nspr.toNat s m

/-! ### Commands -/

theorem frameTick_ignoresFb : IgnoresFb frameTick := by
  refine .of_agree fun s => ?_
  have hdraw := drawPattern_ignoresFb s.act.pattern s.act.startC s.act.endC
  by_cases hr : s.act.pattern = .random
  · exact ⟨_, hdraw.comp tickSprites_ignoresFb,
      fun m => (frameTick_eq_drawPattern (s.setFb m)).trans (if_pos hr)⟩
  · exact ⟨_, hdraw, fun m => (frameTick_eq_drawPattern (s.setFb m)).trans (if_neg hr)⟩

/-- The construction of a renderer clears `FB` first. -/
theorem constructRenderer_ignoresFb (len : BitVec 11) (p : Proto) :
    IgnoresFb (constructRenderer len p) := fun s _ _ _ =>
  have hw := constructRenderer_wf len p s
  ⟨hw, (constructRenderer len p s).fb, rfl, hw, fun _ => .inl rfl⟩

/-- MSG_LOAD as one operation. -/
def loadMessage (s : State) : State :=
  (messageOperand s).elim (setMsgFlags s false false) (adoptMessage · s)

theorem exec_msgLoad (s : State) : exec .msgLoad s = .next (loadMessage s) := by
  cases hm : messageOperand s with
  | none => exact (execMsgLoad_of_none hm).trans (by rw [loadMessage, hm]; rfl)
  | some m => exact (execMsgLoad_of_some hm).trans (by rw [loadMessage, hm]; rfl)

theorem adoptMessage_setFb (msg : Message) (s : State) (m : Memory Elem) :
    adoptMessage msg (s.setFb m) = (adoptMessage msg s).setFb m := by
  unfold adoptMessage
  split <;> split <;> first | rfl | contradiction

theorem loadMessage_ignoresFb : IgnoresFb loadMessage := by
  refine .of_commute fun s m => ?_
  have hmsg : messageOperand (s.setFb m) = messageOperand s := rfl
  rw [loadMessage, loadMessage, hmsg]
  cases messageOperand s with
  | none => rfl
  | some msg => exact adoptMessage_setFb msg s m

/-- Every command is an operation that does not read `FB`. -/
theorem exec_ignoresFb (i : Instr) : ∃ op, (∀ s, exec i s = .next (op s)) ∧ IgnoresFb op := by
  have pattern (p : Pattern) : ∃ op, (∀ s, exec (fillOfPattern p) s = .next (op s)) ∧
      IgnoresFb op :=
    ⟨fun s => drawPattern p s.a s.b s, exec_fillOfPattern p,
      .of_agree fun s => ⟨_, drawPattern_ignoresFb p s.a s.b, fun _ => rfl⟩⟩
  cases i with
  | allOff => exact pattern .allOff
  | fillGradient => exact pattern .gradient
  | fillGradientDual => exact pattern .dual
  | fillTriangle => exact pattern .triangle
  | fillRandom => exact pattern .random
  | setPixel idx => exact ⟨_, exec_setPixel idx,
      .of_agree fun s => ⟨_, putPixel_ignoresFb _ s.pix, fun _ => rfl⟩⟩
  | hsv2rgb => exact ⟨_, exec_hsv2rgb, .of_commute fun _ _ => rfl⟩
  | hsvInterp => exact ⟨_, exec_hsvInterp, .of_commute fun _ _ => rfl⟩
  | scale => exact ⟨_, exec_scale, .of_commute fun _ _ => rfl⟩
  | mapRange => exact ⟨_, exec_mapRange, .of_commute fun _ _ => rfl⟩
  | lcgNext => exact ⟨genNext, fun _ => rfl, .of_commute genNext_setFb⟩
  | lcgNextF =>
    refine ⟨fun s => (genNext s).setRndF (drawValue s), fun _ => rfl, .of_commute fun s m => ?_⟩
    rw [genNext_setFb, drawValue_setFb, State.setRndF_setFb]
  | sprInit n =>
    refine ⟨_, exec_sprInit n, .of_commute fun s m => ?_⟩
    rw [forBelow_setFb initSprite_setFb]
    rfl
  | sprTick => exact ⟨_, exec_sprTick, tickSprites_ignoresFb⟩
  | rendInit len proto =>
    cases hp : protoOperand proto with
    | none =>
      exact ⟨illegalCommand, fun _ => by simp only [exec, execRendInit, hp],
        .of_commute fun _ _ => rfl⟩
    | some p =>
      exact ⟨constructRenderer len p, fun _ => by simp only [exec, execRendInit, hp],
        constructRenderer_ignoresFb len p⟩
  | msgLoad => exact ⟨_, exec_msgLoad, loadMessage_ignoresFb⟩
  | frameTick => exact ⟨frameTick, fun _ => rfl, frameTick_ignoresFb⟩

/-- Settles O13: in range an element is read from the buffer, beyond it is 0 in both. -/
theorem commandsNeverReadFrameBuffer : Obligations.CommandsNeverReadFrameBuffer := by
  intro i s t m hs hm ht
  obtain ⟨op, hexec, hop⟩ := exec_ignoresFb i
  obtain rfl := Host.Outcome.next.inj (ht.symm.trans (hexec s))
  obtain ⟨-, m', heq, -, hread⟩ := hop s m hs hm
  refine ⟨m', by rw [hexec, heq], fun j => ?_⟩
  have hcfg : (op s).cfg = s.cfg := exec_cfg ht
  rcases hread j with hsame | ⟨hkept, hkept'⟩
  · exact .inl (readFb_congr (State.setFb_cfg _ _) hsame)
  · exact .inr ⟨readFb_congr (s := s.setFb m) hcfg hkept, readFb_congr hcfg hkept'⟩

end Sys2Proof.Machine

/-! The control message: what the 25 bytes of `MSGBUF` decode to, and what MSG_LOAD makes of it
(45_host_control.md R213 to R215). -/

namespace Sys2Proof.Machine

open Sys2Proof

/-- The bytes of a little-endian word are its digits to base 256 (00_scope.md R20). -/
theorem le32_eq_ofNat (b0 b1 b2 b3 : Byte) :
    le32 b0 b1 b2 b3 =
      BitVec.ofNat 32 (b0.toNat + b1.toNat * 2 ^ 8 + b2.toNat * 2 ^ 16 + b3.toNat * 2 ^ 24) := by
  have happend {u v : Nat} (x : BitVec u) (y : BitVec v) :
      (x ++ y).toNat = x.toNat * 2 ^ v + y.toNat := by
    rw [BitVec.toNat_append, ← Nat.shiftLeft_add_eq_or_of_lt y.isLt, Nat.shiftLeft_eq]
  apply BitVec.eq_of_toNat_eq
  simp only [le32, happend, BitVec.toNat_ofNat]
  omega

/-- The message of a valid pattern id is the one with that pattern and the six floats in the order
of the bytes (30_encoding.md R101). -/
theorem messageOperand_eq_some_iff {s : State} {m : Message} :
    messageOperand s = some m ↔ patternNumber m.pattern = (readMsg s 0).toNat ∧
      [m.startC.h, m.startC.s, m.startC.v, m.endC.h, m.endC.s, m.endC.v] =
        (List.range 6).map (messageFloat s) := by
  obtain ⟨p, ⟨ch, cs, cv⟩, dh, ds, dv⟩ := m
  simp only [messageOperand, Option.map_eq_some_iff, patternOperand_spec, messageStart, messageEnd,
    List.range, List.range.loop, List.map_cons, List.map_nil, List.cons.injEq, Message.mk.injEq,
    Hsv.mk.injEq]
  constructor
  · rintro ⟨q, hq, rfl, ⟨rfl, rfl, rfl⟩, rfl, rfl, rfl⟩
    exact ⟨hq, rfl, rfl, rfl, rfl, rfl, rfl, trivial⟩
  · rintro ⟨hp, rfl, rfl, rfl, rfl, rfl, rfl, -⟩
    exact ⟨p, hp, rfl, ⟨rfl, rfl, rfl⟩, rfl, rfl, rfl⟩

theorem messageOperand_eq_none_iff {s : State} :
    messageOperand s = none ↔ 4 < (readMsg s 0).toNat := by
  rw [messageOperand, Option.map_eq_none_iff, patternOperand_none]

/-- Settles O59: the pattern id decides whether there is a message, and the comparison with the
active one whether it is adopted. -/
theorem msgLoadAdoptsValidMessages : Obligations.MsgLoadAdoptsValidMessages := by
  intro s
  refine ⟨fun hpid => execMsgLoad_of_none (messageOperand_eq_none_iff.2 hpid),
    fun m hpattern hfloats => ?_⟩
  have hexec : exec .msgLoad s = .next (adoptMessage m s) :=
    execMsgLoad_of_some <| messageOperand_eq_some_iff.2
      ⟨hpattern, hfloats.trans (List.map_congr_left fun j _ =>
        congrArg clamp01 (le32_eq_ofNat _ _ _ _).symm)⟩
  exact ⟨fun h => hexec.trans (congrArg _ (adoptMessage_of_eq h)),
    fun h => hexec.trans (congrArg _ (adoptMessage_of_ne h))⟩

end Sys2Proof.Machine

/-! A frame tick is a sequence of host accesses (45_host_control.md R219).  Drawing a pattern in
given colours and ticking the sprites neither read nor write A, B and the model's own fields
(log entry 2): these hold what the host sequence put there, and the rest what the tick leaves. -/

namespace Sys2Proof.Machine

open Sys2Proof

/-- All that the accesses of a frame tick change beside the fill and the sprite tick: A, B, the
events to come and the port's answer. -/
def State.setHost (s : State) (a b : Hsv) (es : List Event) (u : Option Word) : State :=
  { s with a := a, b := b, pending := es, answer := u }

/-- An operation that neither reads nor writes what `State.setHost` sets. -/
def IgnoresHost (op : State → State) : Prop :=
  ∀ (s : State) (a b : Hsv) (es : List Event) (u : Option Word),
    op (s.setHost a b es u) = (op s).setHost a b es u

theorem IgnoresHost.comp {op op' : State → State} (h : IgnoresHost op) (h' : IgnoresHost op') :
    IgnoresHost fun s => op' (op s) := fun s a b es u =>
  (congrArg op' (h s a b es u)).trans (h' (op s) a b es u)

/-- What an operation does may depend on all of the state but what `State.setHost` sets. -/
theorem IgnoresHost.of_agree {op : State → State}
    (h : ∀ s : State, ∃ op', IgnoresHost op' ∧
      ∀ a b es u, op (s.setHost a b es u) = op' (s.setHost a b es u)) : IgnoresHost op := by
  intro s a b es u
  obtain ⟨op', hop, heq⟩ := h s
  have hself : op s = op' s := heq s.a s.b s.pending s.answer
  rw [hself, heq, hop]

theorem forBelow_ignoresHost {body : Nat → State → State} (h : ∀ i, IgnoresHost (body i))
    (n : Nat) : IgnoresHost (forBelow n body) := by
  induction n with
  | zero => exact fun _ _ _ _ _ => rfl
  | succ n ih => exact ih.comp (h n)

/-- What such an operation leaves there is what was there. -/
theorem IgnoresHost.setHost_setHost_self {op : State → State} (h : IgnoresHost op) (s : State)
    (a b : Hsv) (u : Option Word) :
    ((op s).setHost a b s.pending u).setHost s.a s.b s.pending s.answer = op s :=
  (h s s.a s.b s.pending s.answer).symm

/-! ### Pixels -/

theorem writeFb_ignoresHost (k : Nat) (v : Elem) : IgnoresHost fun s => writeFb s k v :=
  fun s a b es u => (apply_ite (State.setHost · a b es u) (k < s.cfg.fbCap)
    (s.setFb (Memory.write emptyElem s.fb k (elemCW s.cfg v))) s).symm

theorem putClocked_ignoresHost (i : Nat) (p : Pixel) : IgnoresHost (putClocked i p) :=
  .of_agree fun s =>
    ⟨_, (((writeFb_ignoresHost (4 + 4 * i) s.cfg.bright).comp
      (writeFb_ignoresHost (4 + 4 * i + 1) p.b)).comp
      (writeFb_ignoresHost (4 + 4 * i + 2) p.g)).comp
      (writeFb_ignoresHost (4 + 4 * i + 3) p.r), fun _ _ _ _ => rfl⟩

theorem putSingle_ignoresHost (i : Nat) (p : Pixel) : IgnoresHost (putSingle i p) :=
  ((writeFb_ignoresHost (3 * i) p.r).comp (writeFb_ignoresHost (3 * i + 1) p.g)).comp
    (writeFb_ignoresHost (3 * i + 2) p.b)

theorem putPixel_ignoresHost (i : Nat) (p : Pixel) : IgnoresHost (putPixel i p) := by
  refine .of_agree fun s => ?_
  rcases Nat.lt_or_ge i s.len.toNat with hi | hi
  · cases hproto : s.proto with
    | clocked =>
      exact ⟨_, putClocked_ignoresHost i p, fun a b es u =>
        putPixel_of_clocked (s := s.setHost a b es u) hi hproto⟩
    | single =>
      exact ⟨_, putSingle_ignoresHost i p, fun a b es u =>
        putPixel_of_single (s := s.setHost a b es u) hi hproto⟩
    | pwm =>
      exact ⟨(State.setDuty · p), fun _ _ _ _ _ => rfl, fun a b es u =>
        putPixel_of_pwm (s := s.setHost a b es u) hi hproto⟩
  · exact ⟨id, fun _ _ _ _ _ => rfl, fun a b es u =>
      putPixel_of_le (s := s.setHost a b es u) hi⟩

/-- A pattern is drawn in the colours it is given, whatever A and B hold. -/
theorem drawPattern_ignoresHost (p : Pattern) (c d : Hsv) : IgnoresHost (drawPattern p c d) :=
  .of_agree fun s =>
    ⟨putStrip (patternCount s p) (fun i => patternColour s c d i p),
      forBelow_ignoresHost (fun i => putPixel_ignoresHost i _) _,
      fun _ _ _ _ => by cases p <;> rfl⟩

/-! ### Sprites -/

theorem genNext_ignoresHost : IgnoresHost genNext := fun _ _ _ _ _ => rfl

theorem writeSprite_ignoresHost (k : Nat) (x : Sprite) : IgnoresHost fun s => writeSprite s k x :=
  fun s a b es u => (apply_ite (State.setHost · a b es u) (k < Config.nMax)
    (s.setSpr (Memory.write emptySprite s.spr k x)) s).symm

/-- Each arm of the update writes a sprite that comes from the bank and the generator alone
(43_sprite.md R164). -/
theorem updateSprite_ignoresHost (k : Nat) : IgnoresHost (updateSprite k) := by
  intro s a b es u
  have hread : readSprite (s.setHost a b es u) k = readSprite s k := rfl
  have hretarget (x : Sprite) : retarget (s.setHost a b es u) x = retarget s x := rfl
  simp only [updateSprite, hread, hretarget, genNext_ignoresHost _ a b es u,
    writeSprite_ignoresHost _ _ _ a b es u, apply_ite (State.setHost · a b es u)]

theorem tickSprites_ignoresHost : IgnoresHost tickSprites :=
  .of_agree fun s => ⟨_, forBelow_ignoresHost updateSprite_ignoresHost s.nspr.toNat,
    fun _ _ _ _ => rfl⟩

/-- A frame tick takes its colours from the active message (45_host_control.md R217). -/
theorem frameTick_ignoresHost : IgnoresHost frameTick := by
  refine .of_agree fun s => ?_
  have hdraw := drawPattern_ignoresHost s.act.pattern s.act.startC s.act.endC
  by_cases hr : s.act.pattern = .random
  · exact ⟨_, hdraw.comp tickSprites_ignoresHost, fun a b es u =>
      (frameTick_eq_drawPattern (s.setHost a b es u)).trans (if_pos hr)⟩
  · exact ⟨_, hdraw, fun a b es u =>
      (frameTick_eq_drawPattern (s.setHost a b es u)).trans (if_neg hr)⟩

/-! ### The host sequence -/

/-- A run goes on from the state that its first step leaves. -/
theorem run_succ_of_step {s t : State} {o : Host.Outcome State Fault Refusal} {k : Nat}
    (h : step s = .next t) (ho : Sys2Proof.core.run k t = o) :
    Sys2Proof.core.run (k + 1) s = o := by
  have hrun {M : Host.Core} {s t : M.State} (h : M.step s = .next t) :
      M.run (k + 1) s = M.run k t := by
    simp only [Host.Core.run, h]
  exact (hrun h).trans ho

/-- A write to a register of A or B changes the colours and comes off the events to come. -/
theorem step_regWrite {s : State} {n : Nat} {w : Word} {a b a' b' : Hsv} {es : List Event}
    {u : Option Word} (hn : n ≠ 0)
    (hw : writeRegNumber (s.setHost a b es u) n w = s.setHost a' b' es u) :
    step (s.setHost a b (.regWrite n w :: es) u) = .next (s.setHost a' b' es none) :=
  (stepServesHostAccess (s.setHost a b (.regWrite n w :: es) u) _ es rfl (if_neg hn)).trans
    (congrArg (fun t => Host.Outcome.next (t.setAnswer none)) hw)

/-- A write of the word of a command to `CMD` runs the command. -/
theorem step_command {i : Instr} (hi : i.WF) (s : State) (c d : Hsv) (es : List Event) :
    step (s.setHost c d (.regWrite 0 (encode i) :: es) none) = exec i (s.setHost c d es none) :=
  (stepRunsDecodedCommand (s.setHost c d (.regWrite 0 (encode i) :: es) none) _ es i
    (decodeInvertsEncode i hi)).1 rfl

theorem fillOfPattern_wf (p : Pattern) : (fillOfPattern p).WF := by
  cases p <;> trivial

/-- The fill of a pattern, issued with the colours in A and B, draws the pattern in them. -/
theorem step_fill (p : Pattern) (s : State) (c d : Hsv) (es : List Event) :
    step (s.setHost c d (.regWrite 0 (encode (fillOfPattern p)) :: es) none) =
      .next ((drawPattern p c d s).setHost c d es none) := by
  rw [step_command (fillOfPattern_wf p), exec_fillOfPattern]
  exact congrArg _ (drawPattern_ignoresHost p c d s c d es none)

theorem step_sprTick (s : State) (c d : Hsv) (es : List Event) :
    step (s.setHost c d (.regWrite 0 (encode .sprTick) :: es) none) =
      .next ((tickSprites s).setHost c d es none) := by
  rw [step_command (i := .sprTick) rfl, exec_sprTick, tickSprites_ignoresHost]

/-- The writes of a colour to A and of another to B. -/
def colourWrites (c d : Hsv) : List Event :=
  [.regWrite 3 c.h, .regWrite 4 c.s, .regWrite 5 c.v,
   .regWrite 6 d.h, .regWrite 7 d.s, .regWrite 8 d.v]

/-- Colours in range go to A and B as they are: the registers' clamp does not change them
(10_state.md R36). -/
theorem run_colourWrites {c d : Hsv} (hc : c.InUnit) (hd : d.InUnit) {s : State} {es : List Event}
    {o : Host.Outcome State Fault Refusal} {k : Nat}
    (h : Sys2Proof.core.run k (s.setHost c d es none) = o) :
    Sys2Proof.core.run (k + 6) (s.setPending (colourWrites c d ++ es)) = o := by
  obtain ⟨hch, hcs, hcv⟩ := hc
  obtain ⟨hdh, hds, hdv⟩ := hd
  have hclamp : s.setHost ⟨clamp01 c.h, clamp01 c.s, clamp01 c.v⟩
      ⟨clamp01 d.h, clamp01 d.s, clamp01 d.v⟩ es none = s.setHost c d es none := by
    rw [clamp01_of_inUnit hch, clamp01_of_inUnit hcs, clamp01_of_inUnit hcv,
      clamp01_of_inUnit hdh, clamp01_of_inUnit hds, clamp01_of_inUnit hdv]
  rw [← hclamp] at h
  have hstart : s.setPending (colourWrites c d ++ es) =
      s.setHost s.a s.b (colourWrites c d ++ es) s.answer := rfl
  rw [hstart]
  exact run_succ_of_step (step_regWrite (n := 3) (by decide) rfl) <|
    run_succ_of_step (step_regWrite (n := 4) (by decide) rfl) <|
    run_succ_of_step (step_regWrite (n := 5) (by decide) rfl) <|
    run_succ_of_step (step_regWrite (n := 6) (by decide) rfl) <|
    run_succ_of_step (step_regWrite (n := 7) (by decide) rfl) <|
    run_succ_of_step (step_regWrite (n := 8) (by decide) rfl) h

/-- The host sequence leaves the state of the frame tick, with the active colours in A and B. -/
theorem run_frameTickAccesses {s : State} (h : s.Inv) :
    Sys2Proof.core.run (frameTickAccesses s.act).length
        (s.setPending (frameTickAccesses s.act ++ s.pending)) =
      .next ((frameTick s).setHost s.act.startC s.act.endC s.pending none) := by
  by_cases hr : s.act.pattern = .random
  · have haccesses : frameTickAccesses s.act = colourWrites s.act.startC s.act.endC ++
        [.regWrite 0 (encode (fillOfPattern s.act.pattern)), .regWrite 0 (encode .sprTick)] :=
      congrArg (_ ++ ·) (if_pos hr)
    rw [haccesses, frameTick_eq_drawPattern, if_pos hr, List.append_assoc]
    exact run_colourWrites h.actStart h.actEnd <| run_succ_of_step (step_fill _ _ _ _ _) <|
      run_succ_of_step (step_sprTick _ _ _ _) rfl
  · have haccesses : frameTickAccesses s.act = colourWrites s.act.startC s.act.endC ++
        [.regWrite 0 (encode (fillOfPattern s.act.pattern))] :=
      congrArg (_ ++ ·) (if_neg hr)
    rw [haccesses, frameTick_eq_drawPattern, if_neg hr, List.append_assoc]
    exact run_colourWrites h.actStart h.actEnd <| run_succ_of_step (step_fill _ _ _ _ _) rfl

/-- Settles O60: the host sequence does what the tick does beside A, B and the port's answer, and
the tick leaves these as they were. -/
theorem frameTickIsHostSequence : Obligations.FrameTickIsHostSequence := fun s h =>
  ⟨frameTick s, _, rfl, run_frameTickAccesses h,
    (frameTick_ignoresHost.setHost_setHost_self s s.act.startC s.act.endC none).symm⟩

end Sys2Proof.Machine

/-! The block cannot become stuck (60_exceptions.md R242): every command completes, so every step
answers a next state. -/

namespace Sys2Proof.Machine

open Sys2Proof

/-- Every command is an operation on the state, so it completes (60_exceptions.md R242). -/
theorem exec_answersNext (i : Instr) (s : State) : ∃ t, exec i s = .next t :=
  have ⟨op, hexec, _⟩ := exec_ignoresFb i
  ⟨op s, hexec s⟩

/-- A write of `CMD` completes, whether or not its word spells a command. -/
theorem runCommand_answersNext (w : Word) (s : State) : ∃ t, runCommand w s = .next t := by
  unfold runCommand
  cases decode w with
  | ok i => exact exec_answersNext i s
  | error => exact ⟨illegalCommand s, rfl⟩

theorem step_of_pending_nil {s : State} (hp : s.pending = []) : step s = .next s := by
  simp only [step, hp]

theorem step_answersNext (s : State) : ∃ t, step s = .next t := by
  cases hp : s.pending with
  | nil => exact ⟨s, step_of_pending_nil hp⟩
  | cons e rest =>
    cases hw : commandWord e with
    | none => exact ⟨_, stepServesHostAccess s e rest hp hw⟩
    | some w => exact step_commandWord hp hw ▸ runCommand_answersNext w _

/-- Settles O10: the block waits, serves an event or takes a command word, and each completes. -/
theorem stepAlwaysAnswersNext : Obligations.StepAlwaysAnswersNext :=
  ⟨step_answersNext, fun _ => step_of_pending_nil⟩

end Sys2Proof.Machine

/-! The reset event: the reset state of the implementation, with every memory holding what the event
mentions there (70_reset_and_hazards.md R250 to R252, 10_state.md R59). -/

namespace Sys2Proof.Machine

open Sys2Proof

/-! ### Memories by their first pair -/

theorem Memory.read_eq_find? {α : Type} (d : α) (m : Memory α) (j : Nat) :
    Memory.read d m j = ((m.find? (fun x => x.1 = j)).map Prod.snd).getD d := by
  induction m with
  | nil => rfl
  | cons c m ih =>
    obtain ⟨k, u⟩ := c
    by_cases hk : k = j
    · simp [Memory.read_cons, hk]
    · simp [Memory.read_cons, hk, ih]

/-- A loaded memory holds, at an index in range, the first pair of the index, and nothing where no
pair mentions it. -/
theorem Memory.read_load {α : Type} [DecidableEq α] {d : α} {cap : Nat} (fix : α → α)
    (cells : List (Nat × α)) {j : Nat} (hj : j < cap) :
    Memory.read d (Memory.load d cap fix cells) j =
      ((cells.find? (fun x => x.1 = j)).map fun x => fix x.2).getD d := by
  induction cells with
  | nil => rfl
  | cons c cells ih =>
    obtain ⟨k, v⟩ := c
    by_cases hk : k = j
    · subst hk
      simp [Memory.load, hj, Memory.read_write_same _ _ _ (Memory.wf_load _ _ _)]
    · have hother (u : α) : Memory.read d
          (Memory.write d (Memory.load d cap fix cells) k u) j =
            Memory.read d (Memory.load d cap fix cells) j :=
        Memory.read_write_other _ _ (Memory.wf_load _ _ _) (Ne.symm hk)
      simp only [Memory.load, apply_ite (Memory.read d · j), hother, ite_self, ih]
      simp [hk]

theorem Memory.read_load_of_find? {α : Type} [DecidableEq α] {d : α} {cap : Nat} (fix : α → α)
    {cells : List (Nat × α)} {j : Nat} {v : α} (hj : j < cap)
    (hv : cells.find? (fun x => x.1 = j) = some (j, v)) :
    Memory.read d (Memory.load d cap fix cells) j = fix v := by
  rw [Memory.read_load fix cells hj, hv]
  rfl

/-! ### What the memories hold after a reset -/

section afterReset

variable {s : State} {c : ResetContents} {j : Nat}

theorem readFb_resetEvent {v : Elem} (hj : j < s.cfg.fbCap)
    (hv : c.fb.find? (fun x => x.1 = j) = some (j, v)) :
    readFb (resetEvent c s) j = elemCW s.cfg v :=
  (if_pos hj).trans (Memory.read_load_of_find? _ hj hv)

theorem readSprite_resetEvent {v : Sprite} (hj : j < Config.nMax)
    (hv : c.spr.find? (fun x => x.1 = j) = some (j, v)) :
    readSprite (resetEvent c s) j = v :=
  (if_pos hj).trans (Memory.read_load_of_find? id hj hv)

theorem readGamma_resetEvent_gammaInit {g : Memory Elem} (hg : s.cfg.gammaInit = some g)
    (hj : j ≤ s.cfg.chMax) :
    readGamma (resetEvent c s) j = ((g.find? (fun x => x.1 = j)).map Prod.snd).getD 0#16 :=
  calc readGamma (resetEvent c s) j
    _ = Memory.read emptyElem (resetEvent c s).gamma j := if_pos hj
    _ = _ := by rw [resetEvent_gammaInit c s hg, Memory.read_eq_find?, emptyElem]

theorem readGamma_resetEvent {v : Elem} (hg : s.cfg.gammaInit = none) (hj : j ≤ s.cfg.chMax)
    (hv : c.gamma.find? (fun x => x.1 = j) = some (j, v)) :
    readGamma (resetEvent c s) j = elemCW s.cfg v :=
  calc readGamma (resetEvent c s) j
    _ = Memory.read emptyElem (resetEvent c s).gamma j := if_pos hj
    _ = elemCW s.cfg v := by
      rw [resetEvent_gamma c s hg, Memory.read_load_of_find? _ (Nat.lt_succ_of_le hj) hv]

end afterReset

/-! ### The step -/

/-- A reset is not answered, so the port holds nothing after it, as in every reset state. -/
theorem step_reset {s : State} {c : ResetContents} {rest : List Event}
    (hp : s.pending = .reset c :: rest) : step s = .next (resetEvent c (s.setPending rest)) :=
  stepServesHostAccess s (.reset c) rest hp rfl

/-- Settles O20: the event's frame, then each memory by the pair the event mentions first. -/
theorem resetEventGivesResetState : Obligations.ResetEventGivesResetState := fun s c rest hp =>
  ⟨resetEvent c (s.setPending rest), step_reset hp, resetEvent_frame c (s.setPending rest),
    fun _ _ => readFb_resetEvent, fun _ _ => readSprite_resetEvent,
    fun _ hg => ⟨resetEvent_gammaInit c _ hg, fun _ => readGamma_resetEvent_gammaInit hg⟩,
    fun hg _ _ => readGamma_resetEvent hg⟩

end Sys2Proof.Machine
